-- ==== Sys2Proof/Word.lean ====
section
/-! DEFINITION. The word types of the block: bytes, the 32-bit command word, and the four bytes of one transmit. -/

namespace Sys2Proof

/-- A byte is 8 bits (R6). -/
abbrev Byte := BitVec 8

/-- A command word is 32 bits, bit 31 its most significant (R6, R70). -/
abbrev Word := BitVec 32

/-- The CMD and ADDR fields are 4 bits wide (R70). -/
abbrev Nibble := BitVec 4

/-- The DATA field is 20 bits wide (R70). -/
abbrev Payload := BitVec 20

/-- The four bytes of one transmit, `b0` handed over first (R52, R56: never more, never fewer). -/
structure WireBytes where
  b0 : Byte
  b1 : Byte
  b2 : Byte
  b3 : Byte
deriving DecidableEq, Repr

end Sys2Proof
end

