-- ==== Sys2Proof/Config.lean ====
section
/-! DEFINITION. What is fixed for a block instance (the device model, R21 to R23), and the free values: the
uninterpreted functions that stand for what the spec leaves to a draw. -/

namespace Sys2Proof

/-- `dataWidth`: 12, 14 or 16 bits, fixed by the device model (R21). -/
inductive DataWidth where
  | w12
  | w14
  | w16
deriving DecidableEq, Repr

/-- The number of bits a data width names (R5). -/
def DataWidth.bits : DataWidth → Nat
  | .w12 => 12
  | .w14 => 14
  | .w16 => 16

/-- `referenceVoltage`: 2.5 V or 5.0 V (R21), exact values (R23). -/
inductive RefVoltage where
  | v2p5
  | v5p0
deriving DecidableEq, Repr

/-- The reference voltage in millivolts, an exact value (R23). -/
def RefVoltage.milliVolts : RefVoltage → Nat
  | .v2p5 => 2500
  | .v5p0 => 5000

/-- `powerUpMultiplier`: 0.0 or 0.5 (R21). -/
inductive PowerUp where
  | zeroScale
  | halfScale
deriving DecidableEq, Repr

/-- The power-up multiplier as the exact rational 0 or 1/2 (R23). -/
def PowerUp.multiplier : PowerUp → Rat
  | .zeroScale => 0
  | .halfScale => 1 / 2

/-- A DeviceModel: the triple a row of `DEVICE_MODEL_TABLE` holds (R21, R22). -/
structure DeviceModel where
  dataWidth : DataWidth
  referenceVoltage : RefVoltage
  powerUpMultiplier : PowerUp
deriving DecidableEq, Repr

/-- The identifier of the one row of `DEVICE_MODEL_TABLE` the spec gives (R22). -/
def Config.givenModelId : String := "AD5628-1"

/-- The triple of that row: (12, 2.5, 0.0) (R22). -/
def Config.givenModel : DeviceModel :=
  { dataWidth := .w12, referenceVoltage := .v2p5, powerUpMultiplier := .zeroScale }

/-- `DEVICE_MODEL_TABLE` (R22): identifiers and their triples. Five of the six rows are OPEN (D19), so the table
is an argument wherever it is used, never a constant. Log entry 13. -/
abbrev DeviceTable := List (String × DeviceModel)

/-- The constraints of R22: six distinct identifiers, and the given row among the rows. The ranges of the triples
are those of `DeviceModel` itself. -/
def DeviceTable.legal (table : DeviceTable) : Bool :=
  table.length == 6 && decide (table.map Prod.fst).Nodup &&
    table.contains (Config.givenModelId, Config.givenModel)

/-- The transport's answer to one `Transmit` (R55). -/
inductive TransportOutcome where
  | ok
  | fail
deriving DecidableEq, Repr, Inhabited

/-- FREE VALUE: the transport's answer where State's list of answers is used up (R55: a draw, under no law).
DESIGN CHOICE on how the draw is presented, safe. Log entry 4. -/
opaque Config.transportOutcome : Nat → TransportOutcome

/-- FREE VALUE: what CMD_WORD holds once the request that wrote it is over, or after a block reset (R35, R37:
unspecified, unobservable). Safe. Log entry 3. -/
opaque Config.unspecifiedWord : Nat → Word

end Sys2Proof
end

