-- ==== Sys2Proof/Syntax.lean ====
section
/-! DEFINITION. The requests of the block and its nine operations, one constructor per row of
spec/opcode_table.json. -/

namespace Sys2Proof

/-- A channel or mode operand: a symbolic name or a numeric code of 8 bits (R26, R75). -/
inductive Sel where
  /-- `Name(s)`: matched exactly against a table (R76). -/
  | name (s : String)
  /-- `Code(n)`: n is 8 bits on the port (R26). -/
  | code (n : BitVec 8)
deriving DecidableEq, Repr

/-- A boolean operand, where a host has one, is the numeric code 1 for true and 0 for false (R75). -/
def Sel.ofBool : Bool → Sel
  | true => .code 1
  | false => .code 0

/-- The record presented on the request port (R26). -/
structure Request where
  op : Nibble
  chan : Sel
  mode : Sel
  value : BitVec 16
deriving DecidableEq, Repr

/-- The nine operations with the operands each reads, in the order of its signature (R73, R84). The operands are
as the request carries them: a name or a code, valid or not. A field the operation ignores is not part of it. -/
inductive Instr where
  /-- R100, op 0x0. -/
  | writeInputRegister (chan : Sel) (value : BitVec 16)
  /-- R101, op 0x1. -/
  | updateDacRegister (chan : Sel)
  /-- R102, op 0x2. -/
  | writeInputRegisterUpdateAll (chan : Sel) (value : BitVec 16)
  /-- R103, op 0x3. -/
  | writeAndUpdateChannel (chan : Sel) (value : BitVec 16)
  /-- R120, op 0x4. -/
  | setPowerMode (mode chan : Sel)
  /-- R122, op 0x5. -/
  | setClearCodeMode (mode : Sel)
  /-- R123, op 0x6. -/
  | setLdacMode (mode chan : Sel)
  /-- R124, op 0x7: the DAC's software-reset command, not the block's own reset (R125). -/
  | reset
  /-- R126, op 0x8. -/
  | setInternalReferenceMode (mode : Sel)
deriving DecidableEq, Repr

end Sys2Proof
end

