-- ==== Sys2Proof/WellFormed.lean ====
section
/-! DEFINITION. Which instructions are well-formed: those a command word spells. Every operand is a numeric code
that its check passes (R78, R80, R82); an LDAC instruction with mode HW has channel code 0, since its word carries
no channel (R92; log entry 10). An instruction that is not well-formed still runs: it ends with the status the
checks give it, or sends the same word as its well-formed form. -/

namespace Sys2Proof

/-- A channel code: 0 to 7, or the sentinel 15 (R78). -/
def Sel.isChannelCode : Sel → Bool
  | .code n => decide (n.toNat ≤ 7) || decide (n.toNat = 15)
  | .name _ => false

/-- A mode code of a table whose codes are all the numbers below `bound` (R80: 4 for POWER and CLEAR, 2 for LDAC
and REF). -/
def Sel.isModeCode (bound : Nat) : Sel → Bool
  | .code n => decide (n.toNat < bound)
  | .name _ => false

/-- The value check of R82. -/
def valueFits (dw : DataWidth) (v : BitVec 16) : Bool :=
  decide (v.toNat < 2 ^ dw.bits)

/-- Well-formedness for a block of data width `dw`. -/
def wellFormed (dw : DataWidth) : Instr → Bool
  | .writeInputRegister chan value => chan.isChannelCode && valueFits dw value
  | .updateDacRegister chan => chan.isChannelCode
  | .writeInputRegisterUpdateAll chan value => chan.isChannelCode && valueFits dw value
  | .writeAndUpdateChannel chan value => chan.isChannelCode && valueFits dw value
  | .setPowerMode mode chan => mode.isModeCode 4 && chan.isChannelCode
  | .setClearCodeMode mode => mode.isModeCode 4
  | .setLdacMode mode chan =>
      mode.isModeCode 2 && chan.isChannelCode && (decide (mode = .code 1) || decide (chan = .code 0))
  | .reset => true
  | .setInternalReferenceMode mode => mode.isModeCode 2

end Sys2Proof
end

