-- ==== Sys2Proof/Decode.lean ====
section
/-! DEFINITION. The two decoders and the encoder. `decodeRequest` reads an operation from a request (R83, R84): it
is what the machine runs. `decodeWord` reads the operation from a 32-bit command word (R70, R74, R92), refusing
every reserved word by name; `encode` writes that word from the bit patterns of spec/opcode_table.json. -/

namespace Sys2Proof

/-! ### Requests -/

/-- The operation a request selects, with the operands it reads (R83, R84); an ignored field is dropped here, so it
can reach nothing. Op selects 0x9 to 0xF select no operation. -/
def decodeRequest (r : Request) : Option Instr :=
  match r.op with
  | 0x0#4 => some (.writeInputRegister r.chan r.value)
  | 0x1#4 => some (.updateDacRegister r.chan)
  | 0x2#4 => some (.writeInputRegisterUpdateAll r.chan r.value)
  | 0x3#4 => some (.writeAndUpdateChannel r.chan r.value)
  | 0x4#4 => some (.setPowerMode r.mode r.chan)
  | 0x5#4 => some (.setClearCodeMode r.mode)
  | 0x6#4 => some (.setLdacMode r.mode r.chan)
  | 0x7#4 => some .reset
  | 0x8#4 => some (.setInternalReferenceMode r.mode)
  | _ => none

/-- The command opcode of each operation, which is also its op select (R73, R83). -/
def opcode : Instr → Nibble
  | .writeInputRegister _ _ => 0x0
  | .updateDacRegister _ => 0x1
  | .writeInputRegisterUpdateAll _ _ => 0x2
  | .writeAndUpdateChannel _ _ => 0x3
  | .setPowerMode _ _ => 0x4
  | .setClearCodeMode _ => 0x5
  | .setLdacMode _ _ => 0x6
  | .reset => 0x7
  | .setInternalReferenceMode _ => 0x8

/-- The content the model gives a field the operation ignores; by R84 any content would do. -/
def ignoredField : Sel := .code 0

/-- A request that presents the operation (R84). -/
def requestOf (i : Instr) : Request :=
  match i with
  | .writeInputRegister chan value => ⟨opcode i, chan, ignoredField, value⟩
  | .updateDacRegister chan => ⟨opcode i, chan, ignoredField, 0⟩
  | .writeInputRegisterUpdateAll chan value => ⟨opcode i, chan, ignoredField, value⟩
  | .writeAndUpdateChannel chan value => ⟨opcode i, chan, ignoredField, value⟩
  | .setPowerMode mode chan => ⟨opcode i, chan, mode, 0⟩
  | .setClearCodeMode mode => ⟨opcode i, ignoredField, mode, 0⟩
  | .setLdacMode mode chan => ⟨opcode i, chan, mode, 0⟩
  | .reset => ⟨opcode i, ignoredField, ignoredField, 0⟩
  | .setInternalReferenceMode mode => ⟨opcode i, ignoredField, mode, 0⟩

/-! ### Command words, decoding -/

/-- Why a word is refused by the decoder (R88, R89, R92): the words no request produces. -/
inductive DecodeError where
  /-- PAD is not 0 (R89). -/
  | paddingNotZero
  /-- CMD is 0x9 to 0xF (R88). -/
  | reservedOpcode
  /-- ADDR is 0x8 to 0xE in a word whose ADDR is a channel (R51, R89). -/
  | reservedAddress
  /-- A bit outside the fields of the word's format is 1 (R74, R89). -/
  | unusedBitSet
  /-- A power-down word with no channel bit (R92). -/
  | noChannelBit
  /-- A power-down or LDAC word with more than one channel bit (R92, R121). -/
  | severalChannelBits
  /-- Fewer than four bytes are left (R91). -/
  | truncated
deriving DecidableEq, Repr

/-- A channel address as a selector (R51). -/
def channelOfAddr (a : Nibble) : Except DecodeError Sel :=
  if a.toNat ≤ 7 ∨ a.toNat = 15 then .ok (.code (a.setWidth 8)) else .error .reservedAddress

/-- The ADDR field as a channel selector (R70). -/
def decodeAddr (w : Word) : Except DecodeError Sel := channelOfAddr (w.extractLsb' 20 4)

/-- The DATA field of format W: the value above SHIFT zero bits (R74, R92). -/
def decodeValue (dw : DataWidth) (w : Word) : Except DecodeError (BitVec 16) :=
  match dw with
  | .w12 => if w.extractLsb' 0 8 = 0 then .ok ((w.extractLsb' 8 12).setWidth 16) else .error .unusedBitSet
  | .w14 => if w.extractLsb' 0 6 = 0 then .ok ((w.extractLsb' 6 14).setWidth 16) else .error .unusedBitSet
  | .w16 => if w.extractLsb' 0 4 = 0 then .ok (w.extractLsb' 4 16) else .error .unusedBitSet

/-- The channel bits of formats P and L, from DATA[15] and DATA[7:0]: bit c for channel c, bit 15 for ALL_DAC
(R74). -/
def channelBits (w : Word) : BitVec 9 :=
  w.extractLsb' 15 1 ++ w.extractLsb' 0 8

/-- The channel whose bit is the one set bit; `none` if no bit is set (R92). -/
def decodeChannelBits (b : BitVec 9) : Except DecodeError (Option (BitVec 8)) :=
  match b with
  | 0#9 => .ok none
  | 1#9 => .ok (some 0)
  | 2#9 => .ok (some 1)
  | 4#9 => .ok (some 2)
  | 8#9 => .ok (some 3)
  | 16#9 => .ok (some 4)
  | 32#9 => .ok (some 5)
  | 64#9 => .ok (some 6)
  | 128#9 => .ok (some 7)
  | 256#9 => .ok (some 15)
  | _ => .error .severalChannelBits

/-- Format W (R74): the channel and the value. -/
def decodeW (dw : DataWidth) (w : Word) (mk : Sel → BitVec 16 → Instr) : Except DecodeError Instr :=
  match decodeAddr w with
  | .error e => .error e
  | .ok chan =>
    match decodeValue dw w with
    | .error e => .error e
    | .ok value => .ok (mk chan value)

/-- Format U (R74). -/
def decodeU (w : Word) : Except DecodeError Instr :=
  match decodeAddr w with
  | .error e => .error e
  | .ok chan => if w.extractLsb' 0 20 = 0 then .ok (.updateDacRegister chan) else .error .unusedBitSet

/-- Format P (R74): bits [23:16] and [14:10] are 0 and exactly one channel bit is set (R92). -/
def decodeP (w : Word) : Except DecodeError Instr :=
  if w.extractLsb' 16 8 = 0 ∧ w.extractLsb' 10 5 = 0 then
    match decodeChannelBits (channelBits w) with
    | .error e => .error e
    | .ok none => .error .noChannelBit
    | .ok (some c) => .ok (.setPowerMode (.code ((w.extractLsb' 8 2).setWidth 8)) (.code c))
  else .error .unusedBitSet

/-- Format C (R74). -/
def decodeC (w : Word) : Except DecodeError Instr :=
  if w.extractLsb' 2 22 = 0 then .ok (.setClearCodeMode (.code ((w.extractLsb' 0 2).setWidth 8)))
  else .error .unusedBitSet

/-- Format L (R74): bits [23:16] and [14:8] are 0 and at most one channel bit is set (R92). A word with none is
mode HW and carries no channel; the decoder answers channel code 0. DESIGN CHOICE, log entry 10. -/
def decodeL (w : Word) : Except DecodeError Instr :=
  if w.extractLsb' 16 8 = 0 ∧ w.extractLsb' 8 7 = 0 then
    match decodeChannelBits (channelBits w) with
    | .error e => .error e
    | .ok none => .ok (.setLdacMode (.code 0) (.code 0))
    | .ok (some c) => .ok (.setLdacMode (.code 1) (.code c))
  else .error .unusedBitSet

/-- Format R (R74). -/
def decodeR (w : Word) : Except DecodeError Instr :=
  if w.extractLsb' 0 24 = 0 then .ok .reset else .error .unusedBitSet

/-- Format I (R74). -/
def decodeI (w : Word) : Except DecodeError Instr :=
  if w.extractLsb' 1 23 = 0 then .ok (.setInternalReferenceMode (.code ((w.extractLsb' 0 1).setWidth 8)))
  else .error .unusedBitSet

/-- The decoder of the format of a command opcode (R73, R74, R88). -/
def decodeFormat (dw : DataWidth) (w : Word) (cmd : Nibble) : Except DecodeError Instr :=
  match cmd with
  | 0x0#4 => decodeW dw w .writeInputRegister
  | 0x1#4 => decodeU w
  | 0x2#4 => decodeW dw w .writeInputRegisterUpdateAll
  | 0x3#4 => decodeW dw w .writeAndUpdateChannel
  | 0x4#4 => decodeP w
  | 0x5#4 => decodeC w
  | 0x6#4 => decodeL w
  | 0x7#4 => decodeR w
  | 0x8#4 => decodeI w
  | _ => .error .reservedOpcode

/-- The decoder of a command word for a block of data width `dw`: the operation is identified from CMD alone
(R92), its operands as codes. Every other word is refused by name. -/
def decodeWord (dw : DataWidth) (w : Word) : Except DecodeError Instr :=
  if w.extractLsb' 28 4 = 0 then decodeFormat dw w (w.extractLsb' 24 4) else .error .paddingNotZero

/-- The decoder of a byte stream: one word is the next four bytes, the first its most significant (R52, R91); the
bytes after it are handed back. -/
def decodeBytes (dw : DataWidth) : List Byte → Except DecodeError (Instr × List Byte)
  | b0 :: b1 :: b2 :: b3 :: rest =>
    match decodeWord dw (b0 ++ b1 ++ b2 ++ b3) with
    | .ok i => .ok (i, rest)
    | .error e => .error e
  | _ => .error .truncated

/-! ### Command words, encoding -/

/-- ADDR of a channel code. Only codes are encoded; `encode` admits no name. -/
def addrField : Sel → Nibble
  | .code n => n.setWidth 4
  | .name _ => 0

/-- A mode code as a field of `n` bits. -/
def modeField (n : Nat) : Sel → BitVec n
  | .code m => m.setWidth n
  | .name _ => 0

/-- The channel bit of formats P and L, DATA[15] first and then DATA[7:0] (R74). -/
def channelBitField : Sel → BitVec 1 × BitVec 8
  | .code n =>
    match n with
    | 0#8 => (0, 0b00000001)
    | 1#8 => (0, 0b00000010)
    | 2#8 => (0, 0b00000100)
    | 3#8 => (0, 0b00001000)
    | 4#8 => (0, 0b00010000)
    | 5#8 => (0, 0b00100000)
    | 6#8 => (0, 0b01000000)
    | 7#8 => (0, 0b10000000)
    | 15#8 => (1, 0b00000000)
    | _ => (0, 0)
  | .name _ => (0, 0)

/-- Format W as the table's pattern writes it: PAD, CMD, a, v, zeros (opcode_table.json, one pattern per data
width). -/
def encodeW (dw : DataWidth) (cmd : Nibble) (chan : Sel) (value : BitVec 16) : Word :=
  match dw with
  | .w12 => 0#4 ++ cmd ++ addrField chan ++ value.setWidth 12 ++ 0#8
  | .w14 => 0#4 ++ cmd ++ addrField chan ++ value.setWidth 14 ++ 0#6
  | .w16 => 0#4 ++ cmd ++ addrField chan ++ value ++ 0#4

/-- The word of each instruction, field by field from the patterns of spec/opcode_table.json (R74). -/
def encodeFields (dw : DataWidth) : Instr → Word
  | .writeInputRegister chan value => encodeW dw 0x0 chan value
  | .updateDacRegister chan => 0#4 ++ 0x1#4 ++ addrField chan ++ 0#20
  | .writeInputRegisterUpdateAll chan value => encodeW dw 0x2 chan value
  | .writeAndUpdateChannel chan value => encodeW dw 0x3 chan value
  | .setPowerMode mode chan =>
      0#4 ++ 0x4#4 ++ 0#8 ++ (channelBitField chan).1 ++ 0#5 ++ modeField 2 mode ++ (channelBitField chan).2
  | .setClearCodeMode mode => 0#4 ++ 0x5#4 ++ 0#22 ++ modeField 2 mode
  | .setLdacMode mode chan =>
      match modeField 1 mode with
      | 0 => 0#4 ++ 0x6#4 ++ 0#24
      | _ => 0#4 ++ 0x6#4 ++ 0#8 ++ (channelBitField chan).1 ++ 0#7 ++ (channelBitField chan).2
  | .reset => 0#4 ++ 0x7#4 ++ 0#24
  | .setInternalReferenceMode mode => 0#4 ++ 0x8#4 ++ 0#23 ++ modeField 1 mode

/-- The encoder: the word of a well-formed instruction, and of no other. -/
def encode (dw : DataWidth) (i : Instr) : Option Word :=
  if wellFormed dw i then some (encodeFields dw i) else none

/-! ### The legal words -/

/-- How many of the bits {0..7, 15} of a word are 1 (R92). -/
def channelBitCount (w : Word) : Nat :=
  ([0, 1, 2, 3, 4, 5, 6, 7, 15].map (fun n => (w.getLsbD n).toNat)).sum

/-- A channel address: 0 to 7 or 15 (R51, R92). -/
def isChannelAddr (a : Nibble) : Bool := decide (a.toNat ≤ 7) || decide (a.toNat = 15)

/-- ADDR is a channel address (R92). -/
def addrIsChannel (w : Word) : Bool := isChannelAddr (w.extractLsb' 20 4)

/-- The condition `LegalWord` puts on a word with command opcode `cmd` (R92), SHIFT being `20 - dataWidth`. -/
def legalFormat (dw : DataWidth) (w : Word) (cmd : Nibble) : Bool :=
  match cmd with
  | 0x0#4 => addrIsChannel w && decide (w.extractLsb' 0 (20 - dw.bits) = 0)
  | 0x1#4 => addrIsChannel w && decide (w.extractLsb' 0 20 = 0)
  | 0x2#4 => addrIsChannel w && decide (w.extractLsb' 0 (20 - dw.bits) = 0)
  | 0x3#4 => addrIsChannel w && decide (w.extractLsb' 0 (20 - dw.bits) = 0)
  | 0x4#4 =>
      decide (w.extractLsb' 16 8 = 0) && decide (w.extractLsb' 10 5 = 0) && decide (channelBitCount w = 1)
  | 0x5#4 => decide (w.extractLsb' 2 22 = 0)
  | 0x6#4 =>
      decide (w.extractLsb' 16 8 = 0) && decide (w.extractLsb' 8 7 = 0) && decide (channelBitCount w ≤ 1)
  | 0x7#4 => decide (w.extractLsb' 0 24 = 0)
  | 0x8#4 => decide (w.extractLsb' 1 23 = 0)
  | _ => false

/-- `LegalWord` of R92: the words the block can produce at a data width. -/
def legalWord (dw : DataWidth) (w : Word) : Bool :=
  decide (w.extractLsb' 28 4 = 0) && legalFormat dw w (w.extractLsb' 24 4)

/-! ### The host's entry -/

/-- The bytes of a word as the block lays them out: most significant first (R52). -/
def wordBytes (w : Word) : List Byte :=
  [w.extractLsb' 24 8, w.extractLsb' 16 8, w.extractLsb' 8 8, w.extractLsb' 0 8]

/-- The instruction the decoder reads from a word of the opcode table numbered as the table numbers it (R6: bit 0
the least significant), its bits above `nbits` 0. A word above 32 bits is none of the block's (R91). The data
width is that of the model after reset, 12 bits (log entries 1 and 10). -/
def decodeTableWord (nbits w : Nat) : Option Instr :=
  if nbits ≤ 32 then
    match decodeBytes Config.givenModel.dataWidth (wordBytes (BitVec.ofNat 32 (w % 2 ^ nbits))) with
    | .ok (i, _) => some i
    | .error _ => none
  else none

end Sys2Proof
end

