-- ==== Sys2Proof/Machine/State.lean ====
section
/-! DEFINITION. The state of the block, of the host's program, and of the free inputs, all as plain data; the state
right after construction; the reasons a step can stop. -/

namespace Sys2Proof.Machine

/-- PHASE (R29). -/
inductive Phase where
  | idle
  | busy
deriving DecidableEq, Repr

/-- The statuses of R150. `unknownDeviceModel` is never held in STATUS and `none` is never returned. -/
inductive Status where
  | ok
  | invalidChannel
  | invalidMode
  | invalidValue
  | invalidOperation
  | transportFailure
  | unknownDeviceModel
  | none
deriving DecidableEq, Repr

/-- One entry of the transmit log: the four bytes offered and the transport's answer (R34). -/
structure TransmitEvent where
  bytes : WireBytes
  outcome : TransportOutcome
deriving DecidableEq, Repr

/-- Where in a step a block reset arrives (R181). -/
inductive ResetPoint where
  /-- no request is in progress -/
  | whileIdle
  /-- the next request has been presented, and its `Transmit` has not been called -/
  | beforeTransmit
  /-- the `Transmit` of the request has been called, and its status has not been returned -/
  | duringTransmit
deriving DecidableEq, Repr

/-- What the block's reset line does in one step. `restart` says whether the host starts its program again at 0
after the reset or goes on where it stood (R37, last row). Log entry 8. -/
inductive ResetDraw where
  | quiet
  | arrives (point : ResetPoint) (restart : Bool)
deriving DecidableEq, Repr

/-- The reasons the block stops for good. Errors of a request are statuses, not faults (R151). -/
inductive Fault where
  /-- Raised by `construct` alone, for an identifier not in the device table: no block instance exists, so there is
  no next state (R154, R180). Safe. -/
  | unknownDeviceModel
deriving DecidableEq, Repr

/-- The reasons a step has no meaning. -/
inductive Refusal where
  /-- Raised by an arm of `exec` that gives its instruction no meaning; no arm of this model does. Safe. -/
  | notModelled (mnemonic : String)
  /-- Raised when a request is presented while another is in progress, which the host must not do and for which the
  block has no step (R185, D16). Safe. Log entry 9. -/
  | overlappingRequest
deriving DecidableEq, Repr

/-- Everything the spec gives the machine, then the model's own fields for the free inputs. -/
structure State where
  /-- CFG (R23), as the triple it encodes; `cfgOut` gives its four bits. -/
  cfg : DeviceModel
  /-- PHASE (R29). -/
  phase : Phase
  /-- STATUS (R32). -/
  status : Status
  /-- CMD_WORD (R35). -/
  cmdWord : Word
  /-- The transmit log, oldest first (R34). -/
  txLog : List TransmitEvent
  /-- The status log, oldest first (R34). -/
  statusLog : List Status
  /-- The host's program (R33). -/
  program : List Request
  /-- The program position: the index of the next request to present (R33). -/
  k : Nat
  /-- The transport's coming answers, next first; beyond them the answers are a free value. Log entry 4. -/
  draws : List TransportOutcome
  /-- What the reset line does in the coming steps, next first; beyond them it is quiet. Log entry 8. -/
  resets : List ResetDraw
  /-- The counter the free values are applied to. Log entry 5. -/
  fresh : Nat
deriving DecidableEq, Repr

/-- The state right after construction of a block with configuration `m` (R37, R180). CMD_WORD is unspecified
there; zero is the model's choice (log entry 2). No program is loaded (log entry 7). -/
def State.constructed (m : DeviceModel) : State where
  cfg := m
  phase := .idle
  status := .none
  cmdWord := 0
  txLog := []
  statusLog := []
  program := []
  k := 0
  draws := []
  resets := []
  fresh := 0

/-- The machine right after construction with "AD5628-1", the one device model whose row the spec gives (R22).
Log entry 1. -/
def State.reset : State := State.constructed Config.givenModel

end Sys2Proof.Machine
end

