-- ==== Sys2Proof/Machine/Operands.lean ====
section
/-! DEFINITION. The operand checks: channel, mode and value (R75 to R82), and the data shift (R25). -/

namespace Sys2Proof.Machine

/-- The channel table (R77). -/
def channelTable : List (String × Nibble) :=
  [("DAC_A", 0), ("DAC_B", 1), ("DAC_C", 2), ("DAC_D", 3), ("DAC_E", 4), ("DAC_F", 5), ("DAC_G", 6),
   ("DAC_H", 7), ("ALL_DAC", 15)]

/-- Mode table POWER (R79). -/
def powerTable : List (String × BitVec 2) :=
  [("NORMAL", 0b00), ("PULL-1K-TO-GND", 0b01), ("PULL-100K-TO-GND", 0b10), ("TRISTATE", 0b11)]

/-- Mode table CLEAR (R79): two names for code 3. -/
def clearTable : List (String × BitVec 2) :=
  [("ZERO", 0b00), ("MIDSCALE", 0b01), ("FULLSCALE", 0b10), ("NORMAL", 0b11), ("NOP", 0b11)]

/-- Mode table LDAC (R79). -/
def ldacTable : List (String × BitVec 2) :=
  [("HW", 0), ("SW", 1)]

/-- Mode table REF (R79). -/
def refTable : List (String × BitVec 2) :=
  [("OFF", 0), ("ON", 1)]

/-- `resolveChannel` (R78). A name must equal its table entry exactly (R76). -/
def resolveChannel : Sel → Except Status Nibble
  | .name s =>
    match channelTable.lookup s with
    | some c => .ok c
    | none => .error .invalidChannel
  | .code n => if n.toNat ≤ 7 ∨ n.toNat = 15 then .ok (n.setWidth 4) else .error .invalidChannel

/-- `resolveMode` (R80): a name of the table, or a number that is a code of the table. -/
def resolveMode (table : List (String × BitVec 2)) : Sel → Except Status (BitVec 2)
  | .name s =>
    match table.lookup s with
    | some m => .ok m
    | none => .error .invalidMode
  | .code n =>
    match table.find? (fun entry => entry.2.setWidth 8 == n) with
    | some entry => .ok entry.2
    | none => .error .invalidMode

/-- `checkValue` (R82). -/
def checkValue (m : DeviceModel) (v : BitVec 16) : Except Status (BitVec 16) :=
  if v.toNat < 2 ^ m.dataWidth.bits then .ok v else .error .invalidValue

/-- `SHIFT` (R25). -/
def shiftOf (m : DeviceModel) : Nat := 20 - m.dataWidth.bits

/-- `v << SHIFT` as DATA. For a checked value nothing is shifted out (R82, R104). -/
def alignValue (m : DeviceModel) (v : BitVec 16) : Payload := v.setWidth 20 <<< shiftOf m

/-- `1 << c` as DATA (R120): bit c, and bit 15 for ALL_DAC. -/
def channelBit (c : Nibble) : Payload := 1#20 <<< c.toNat

end Sys2Proof.Machine
end

