-- ==== Sys2Proof/Machine/Flags.lean ====
section
/-! DEFINITION. The numeric codes of STATUS and the bit fields of CFG as the ports show them. The block has no
other flag (R32). -/

namespace Sys2Proof.Machine

/-- The 3-bit code of each status (R150). -/
def Status.code : Status → BitVec 3
  | .ok => 0b000
  | .invalidChannel => 0b001
  | .invalidMode => 0b010
  | .invalidValue => 0b011
  | .invalidOperation => 0b100
  | .transportFailure => 0b101
  | .unknownDeviceModel => 0b110
  | .none => 0b111

/-- The status construction returns where it faults (R154). -/
def Fault.status : Fault → Status
  | .unknownDeviceModel => .unknownDeviceModel

/-- CFG.DW, bits [1:0] (R23). -/
def dwField : DataWidth → BitVec 2
  | .w12 => 0b00
  | .w14 => 0b01
  | .w16 => 0b10

/-- CFG.VREF, bit [2] (R23). -/
def vrefField : RefVoltage → BitVec 1
  | .v2p5 => 0
  | .v5p0 => 1

/-- CFG.PU, bit [3] (R23). -/
def puField : PowerUp → BitVec 1
  | .zeroScale => 0
  | .halfScale => 1

/-- The four bits of CFG (R23). -/
def cfgBits (m : DeviceModel) : BitVec 4 :=
  puField m.powerUpMultiplier ++ vrefField m.referenceVoltage ++ dwField m.dataWidth

/-- The output port `cfg_out[3:0]` (R23). -/
def State.cfgOut (s : State) : BitVec 4 := cfgBits s.cfg

/-- The status of a request whose one transmit has been answered (R85, R153). -/
def statusOfOutcome : TransportOutcome → Status
  | .ok => .ok
  | .fail => .transportFailure

end Sys2Proof.Machine
end

