-- ==== Sys2Proof/Machine/Ops.lean ====
section
/-! DEFINITION. The shared operations: packing and serializing a word, the steps of the execution frame (R85), the
frame itself, and the block's own reset (R181). An error status is the block's whole account of an exception: it
saves nothing and goes nowhere, so `finish` is both the taking of an error and the return from it (R151, R157,
R158). -/

namespace Sys2Proof.Machine

/-! ### The word and its bytes -/

/-- `Pack` (R71): shift and OR over one 32-bit value. -/
def pack (cmd addr : Nibble) (data : Payload) : Word :=
  (0#32 <<< 28) ||| (cmd.setWidth 32 <<< 24) ||| (addr.setWidth 32 <<< 20) ||| data.setWidth 32

/-- `Serialize` (R52). -/
def serialize (w : Word) : WireBytes where
  b0 := w.extractLsb' 24 8
  b1 := w.extractLsb' 16 8
  b2 := w.extractLsb' 8 8
  b3 := w.extractLsb' 0 8

/-- The word four bytes spell, the first most significant: a reader of the transmit log (R52, R92). -/
def deserialize (b : WireBytes) : Word := b.b0 ++ b.b1 ++ b.b2 ++ b.b3

/-- The bits of a byte, most significant first. -/
def byteBits (b : Byte) : List Bool :=
  [b.getLsbD 7, b.getLsbD 6, b.getLsbD 5, b.getLsbD 4, b.getLsbD 3, b.getLsbD 2, b.getLsbD 1, b.getLsbD 0]

/-- The bit stream a transmit stands for on the wire: bit 31 of the word first, bit 0 last (R53). -/
def wireBits (b : WireBytes) : List Bool :=
  byteBits b.b0 ++ byteBits b.b1 ++ byteBits b.b2 ++ byteBits b.b3

/-- What an event of the transmit log may have delivered to the DAC: after `fail`, any prefix of the bit stream,
from none of it to all of it (R57); after `ok`, the whole stream (DEDUCED, log entry 14). -/
def mayDeliver (e : TransmitEvent) (bits : List Bool) : Bool :=
  match e.outcome with
  | .ok => decide (bits = wireBits e.bytes)
  | .fail => bits.isPrefixOf (wireBits e.bytes)

/-! ### The steps of the frame -/

/-- The block accepts a request: PHASE becomes BUSY (R29). -/
def State.accept (s : State) : State := { s with phase := .busy }

/-- CMD_WORD is written, after every check has passed and before `Transmit` (R35). -/
def State.latch (s : State) (w : Word) : State := { s with cmdWord := w }

/-- The transport's answer to the next `Transmit`: the next draw, or a free value where the draws are used up
(R9, R55). -/
def State.nextOutcome (s : State) : TransportOutcome :=
  match s.draws with
  | outcome :: _ => outcome
  | [] => Config.transportOutcome s.fresh

/-- Append one event for CMD_WORD to the transmit log (R34). -/
def State.logTransmit (s : State) (outcome : TransportOutcome) : State :=
  { s with txLog := s.txLog ++ [{ bytes := serialize s.cmdWord, outcome := outcome }] }

/-- `Transmit` (R55): one call with the four bytes of CMD_WORD; it takes one draw. -/
def State.transmit (s : State) : State :=
  { s.logTransmit s.nextOutcome with
    draws := s.draws.tail
    fresh := if s.draws.isEmpty then s.fresh + 1 else s.fresh }

/-- The end of a request, after OK and after every error alike (R85, R157): STATUS is written, the status is
returned and logged, PHASE goes back to IDLE, and the program position advances by 1 (R27, R32, R33). -/
def State.finish (s : State) (st : Status) : State :=
  { s with phase := .idle, status := st, statusLog := s.statusLog ++ [st], k := s.k + 1 }

/-- Outside a request CMD_WORD holds a free value (R35). -/
def State.release (s : State) : State :=
  { s with cmdWord := Config.unspecifiedWord s.fresh, fresh := s.fresh + 1 }

/-! ### The frame -/

/-- The rest of the frame once every check has passed (R85): CMD_WORD, `Transmit`, status. -/
def transmitRequest (w : Word) (s : State) : State :=
  ((s.accept.latch w).transmit.finish (statusOfOutcome s.nextOutcome)).release

/-- `raise E` before any transmit (R8, R152, R157): STATUS is written and nothing is sent. -/
def rejectRequest (e : Status) (s : State) : State :=
  s.accept.finish e

/-- The execution frame (R85), given what the operand checks and `Build` answered. While PHASE is BUSY there is no
step (R29, R185). -/
def runRequest (checked : Except Status Word) (s : State) : Host.Outcome State Fault Refusal :=
  match s.phase, checked with
  | .busy, _ => .refused .overlappingRequest
  | .idle, .error e => .next (rejectRequest e s)
  | .idle, .ok w => .next (transmitRequest w s)

/-- A request whose op select is 0x9 to 0xF (R83). -/
def rejectOperation (s : State) : Host.Outcome State Fault Refusal :=
  runRequest (.error .invalidOperation) s

/-- The request the host presents next; none once the program has ended (R33). -/
def State.nextRequest (s : State) : Option Request := s.program[s.k]?

/-! ### The block's own reset -/

/-- The block reset (R181): PHASE IDLE, STATUS NONE, CFG and both logs unchanged; it transmits nothing (R182).
CMD_WORD is unspecified after it (R37). The host starts its program again at 0 or goes on (R37). -/
def blockReset (restart : Bool) (s : State) : State :=
  ({ s with phase := .idle, status := .none, k := if restart then 0 else s.k }).release

end Sys2Proof.Machine
end

