-- ==== Sys2Proof/Machine/ControlCommands.lean ====
section
/-! DEFINITION. The control commands, opcodes 0x4 to 0x8 (41_control_commands.md), in the same shape as the data
commands. Each puts 0 in ADDR. -/

namespace Sys2Proof.Machine

/-- R120: the mode code in DATA[9:8], the channel's bit `1 << c`. -/
def buildSetPowerMode (mode chan : Sel) : Except Status Word := do
  let m ← resolveMode powerTable mode
  let c ← resolveChannel chan
  return pack 0x4 0 ((m.setWidth 20 <<< 8) ||| channelBit c)

/-- R122. -/
def buildSetClearCodeMode (mode : Sel) : Except Status Word := do
  let m ← resolveMode clearTable mode
  return pack 0x5 0 (m.setWidth 20)

/-- R123: `m << c`; the channel is checked although mode HW leaves no trace of it. -/
def buildSetLdacMode (mode chan : Sel) : Except Status Word := do
  let m ← resolveMode ldacTable mode
  let c ← resolveChannel chan
  return pack 0x6 0 (m.setWidth 20 <<< c.toNat)

/-- R124: no operand and no check. -/
def buildReset : Except Status Word :=
  .ok (pack 0x7 0 0)

/-- R126. -/
def buildSetInternalReferenceMode (mode : Sel) : Except Status Word := do
  let m ← resolveMode refTable mode
  return pack 0x8 0 (m.setWidth 20)

/-- `setPowerMode(mode, channel)` (R120). -/
def execSetPowerMode (mode chan : Sel) (s : State) : Host.Outcome State Fault Refusal :=
  runRequest (buildSetPowerMode mode chan) s

/-- `setClearCodeMode(mode)` (R122). -/
def execSetClearCodeMode (mode : Sel) (s : State) : Host.Outcome State Fault Refusal :=
  runRequest (buildSetClearCodeMode mode) s

/-- `setLdacMode(mode, channel)` (R123). -/
def execSetLdacMode (mode chan : Sel) (s : State) : Host.Outcome State Fault Refusal :=
  runRequest (buildSetLdacMode mode chan) s

/-- `reset()` (R124): it resets nothing in the block (R125). -/
def execReset (s : State) : Host.Outcome State Fault Refusal :=
  runRequest buildReset s

/-- `setInternalReferenceMode(mode)` (R126): CFG's reference voltage is not touched. -/
def execSetInternalReferenceMode (mode : Sel) (s : State) : Host.Outcome State Fault Refusal :=
  runRequest (buildSetInternalReferenceMode mode) s

end Sys2Proof.Machine
end

