-- ==== Sys2Proof/Machine/DataCommands.lean ====
section
/-! DEFINITION. The data commands, opcodes 0x0 to 0x3 (40_data_commands.md). For each, its operand checks in their
order with its `Build` (R85), and its meaning: the frame run on them. -/

namespace Sys2Proof.Machine

/-- The checks and `Build` that the three value-carrying commands share (R100, R102, R103). -/
def buildWrite (cmd : Nibble) (m : DeviceModel) (chan : Sel) (value : BitVec 16) : Except Status Word := do
  let c ← resolveChannel chan
  let v ← checkValue m value
  return pack cmd c (alignValue m v)

/-- R100. -/
def buildWriteInputRegister (m : DeviceModel) (chan : Sel) (value : BitVec 16) : Except Status Word :=
  buildWrite 0x0 m chan value

/-- R101. -/
def buildUpdateDacRegister (chan : Sel) : Except Status Word := do
  let c ← resolveChannel chan
  return pack 0x1 c 0

/-- R102. -/
def buildWriteInputRegisterUpdateAll (m : DeviceModel) (chan : Sel) (value : BitVec 16) : Except Status Word :=
  buildWrite 0x2 m chan value

/-- R103. -/
def buildWriteAndUpdateChannel (m : DeviceModel) (chan : Sel) (value : BitVec 16) : Except Status Word :=
  buildWrite 0x3 m chan value

/-- `writeInputRegister(channel, value)` (R100). -/
def execWriteInputRegister (chan : Sel) (value : BitVec 16) (s : State) : Host.Outcome State Fault Refusal :=
  runRequest (buildWriteInputRegister s.cfg chan value) s

/-- `updateDacRegister(channel)` (R101). -/
def execUpdateDacRegister (chan : Sel) (s : State) : Host.Outcome State Fault Refusal :=
  runRequest (buildUpdateDacRegister chan) s

/-- `writeInputRegisterUpdateAll(channel, value)` (R102). -/
def execWriteInputRegisterUpdateAll (chan : Sel) (value : BitVec 16) (s : State) :
    Host.Outcome State Fault Refusal :=
  runRequest (buildWriteInputRegisterUpdateAll s.cfg chan value) s

/-- `writeAndUpdateChannel(channel, value)` (R103). -/
def execWriteAndUpdateChannel (chan : Sel) (value : BitVec 16) (s : State) : Host.Outcome State Fault Refusal :=
  runRequest (buildWriteAndUpdateChannel s.cfg chan value) s

end Sys2Proof.Machine
end

