-- ==== Sys2Proof/Machine/BlockReset.lean ====
section
/-! DEFINITION. A block reset that arrives in a step (R181): while the block is IDLE, or part-way through a request,
which it then abandons. -/

namespace Sys2Proof.Machine

/-- The word an operation sends under configuration `m`, or the status its checks raise (R85). -/
def buildWord (m : DeviceModel) : Instr → Except Status Word
  | .writeInputRegister chan value => buildWriteInputRegister m chan value
  | .updateDacRegister chan => buildUpdateDacRegister chan
  | .writeInputRegisterUpdateAll chan value => buildWriteInputRegisterUpdateAll m chan value
  | .writeAndUpdateChannel chan value => buildWriteAndUpdateChannel m chan value
  | .setPowerMode mode chan => buildSetPowerMode mode chan
  | .setClearCodeMode mode => buildSetClearCodeMode mode
  | .setLdacMode mode chan => buildSetLdacMode mode chan
  | .reset => buildReset
  | .setInternalReferenceMode mode => buildSetInternalReferenceMode mode

/-- The same for a request as presented, its op select checked first (R83, R85, R155). -/
def buildRequest (m : DeviceModel) (r : Request) : Except Status Word :=
  match decodeRequest r with
  | some i => buildWord m i
  | none => .error .invalidOperation

/-- The word whose `Transmit` a block reset can interrupt: in a state that is already BUSY, CMD_WORD; otherwise the
word of the next request, if there is one and it passes its checks. A request that fails a check never calls
`Transmit` (R152). -/
def inFlightWord (s : State) : Option Word :=
  match s.phase with
  | .busy => some s.cmdWord
  | .idle =>
    match s.nextRequest with
    | none => none
    | some r => (buildRequest s.cfg r).toOption

/-- The effect of the `Transmit` a block reset interrupts: the event is in the transmit log with outcome `fail`
(R181). No draw is taken: whatever the transport would answer, the log says `fail` (log entry 8). -/
def interruptTransmit (s : State) : State :=
  match inFlightWord s with
  | some w => (s.latch w).logTransmit .fail
  | none => s

/-- A block reset that arrives at `point` of a step (R181). The request in progress, if any, returns no status and
logs none; before its `Transmit` it leaves nothing behind. -/
def takeBlockReset (point : ResetPoint) (restart : Bool) (s : State) : State :=
  match point with
  | .whileIdle => blockReset restart s
  | .beforeTransmit => blockReset restart s
  | .duringTransmit => blockReset restart (interruptTransmit s)

end Sys2Proof.Machine
end

