-- ==== Sys2Proof/Machine/Dispatch.lean ====
section
/-! DEFINITION. The meaning of each instruction, one arm per constructor. -/

namespace Sys2Proof.Machine

def exec (i : Instr) (s : State) : Host.Outcome State Fault Refusal :=
  match i with
  | .writeInputRegister chan value => Sys2Proof.Machine.execWriteInputRegister chan value s
  | .updateDacRegister chan => Sys2Proof.Machine.execUpdateDacRegister chan s
  | .writeInputRegisterUpdateAll chan value => Sys2Proof.Machine.execWriteInputRegisterUpdateAll chan value s
  | .writeAndUpdateChannel chan value => Sys2Proof.Machine.execWriteAndUpdateChannel chan value s
  | .setPowerMode mode chan => Sys2Proof.Machine.execSetPowerMode mode chan s
  | .setClearCodeMode mode => Sys2Proof.Machine.execSetClearCodeMode mode s
  | .setLdacMode mode chan => Sys2Proof.Machine.execSetLdacMode mode chan s
  | .reset => Sys2Proof.Machine.execReset s
  | .setInternalReferenceMode mode => Sys2Proof.Machine.execSetInternalReferenceMode mode s

end Sys2Proof.Machine
end

