-- ==== Sys2Proof/Machine/Request.lean ====
section
/-! DEFINITION. What one step does with the request port and the reset line: presenting the next request (R33, R85)
and placing a request where the next step presents it. -/

namespace Sys2Proof.Machine

/-- A step in which the reset line is quiet: the block waits if the host presents no request (R183); otherwise the
request's op select is looked at first (R155), and the operation it selects runs. -/
def presentRequest (s : State) : Host.Outcome State Fault Refusal :=
  match s.nextRequest with
  | none => .next s
  | some r =>
    match decodeRequest r with
    | none => rejectOperation s
    | some i => exec i s

/-- The reset line's draw for this step is used up (log entry 8). -/
def State.popReset (s : State) : State := { s with resets := s.resets.tail }

/-- The program with `r` at position `k`, filled up with `r` before it where the program is shorter than that. -/
def placeAt (program : List Request) (k : Nat) (r : Request) : List Request :=
  program.take k ++ List.replicate (k - program.length) r ++ r :: program.drop (k + 1)

/-- `s` with the request `r` where the very next step presents it: at position `k`, the reset line quiet and no
request in progress. -/
def State.withRequest (s : State) (r : Request) : State :=
  { s with program := placeAt s.program s.k r, resets := [], phase := .idle }

/-- `s` with no request for the next step to present. -/
def State.withoutRequest (s : State) : State :=
  { s with program := s.program.take s.k, resets := [], phase := .idle }

end Sys2Proof.Machine
end

