-- ==== Sys2Proof/Machine/Step.lean ====
section
/-! DEFINITION. One step of the machine, and the host's way to place an instruction. -/

namespace Sys2Proof.Machine

/-- One step: a block reset if the reset line brings one (R181), otherwise the next request, which runs as one
atomic step (R85), or nothing if there is none (R183). -/
def step (s : State) : Host.Outcome State Fault Refusal :=
  match s.resets with
  | .arrives point restart :: _ => .next (takeBlockReset point restart s.popReset)
  | .quiet :: _ => presentRequest s.popReset
  | [] => presentRequest s

/-- `s` with the request that a table word stands for placed where the next step presents it (R33, R84). The block
fetches nothing (R61), so this stands for the host's load of a program (log entry 7). For a word that is no
instruction's there is no request to place. -/
def State.withFetchWord (s : State) (nbits w : Nat) : State :=
  match decodeTableWord nbits w with
  | some i => s.withRequest (requestOf i)
  | none => s.withoutRequest

end Sys2Proof.Machine
end

