-- ==== Sys2Proof/Machine/CallText.lean ====
section
/-! DEFINITION. The call syntax of R86, `mnemonic(operand, ...)`: a reader and a writer. Spaces between the parts of
a call carry no meaning, which R86 does not say; nor does it say which characters a bare identifier holds, whether a
quoted name can hold a quote, or how a literal's digits are spelt (DESIGN CHOICE, log entry 16). No step depends on this
file. -/

namespace Sys2Proof.CallText

/-- The parts of a call. -/
inductive Token where
  /-- a bare word: a mnemonic, an identifier or a number -/
  | word (chars : List Char)
  /-- a double-quoted name -/
  | quoted (chars : List Char)
  | lpar
  | rpar
  | comma
deriving DecidableEq, Repr

/-- What the reader is inside of. -/
inductive LexMode where
  | between
  | inWord (acc : List Char)
  | inQuote (acc : List Char)
deriving DecidableEq, Repr

/-- The characters of identifiers and numbers. A hyphen is none of them (R86). Of the others R86 says nothing: ASCII
letters, ASCII digits and the underscore are the model's (DESIGN CHOICE, log entry 16). -/
def isWordChar (ch : Char) : Bool := ch.isAlphanum || ch == '_'

/-- A character that stands alone between words. -/
def separator (ch : Char) : Option (List Token × LexMode) :=
  if ch = ' ' then some ([], .between)
  else if ch = '(' then some ([.lpar], .between)
  else if ch = ')' then some ([.rpar], .between)
  else if ch = ',' then some ([.comma], .between)
  else if ch = '"' then some ([], .inQuote [])
  else none

/-- Cut a call into its parts. A quoted name runs to the next double quote and knows no escape, so no quoted name
holds a double quote; R86 does not say (DESIGN CHOICE, log entry 16). -/
def lex : List Char → LexMode → Option (List Token)
  | [], .between => some []
  | [], .inWord acc => some [.word acc.reverse]
  | [], .inQuote _ => none
  | ch :: rest, .inQuote acc =>
    if ch = '"' then (lex rest .between).map (Token.quoted acc.reverse :: ·) else lex rest (.inQuote (ch :: acc))
  | ch :: rest, .inWord acc =>
    if isWordChar ch then lex rest (.inWord (ch :: acc))
    else
      match separator ch with
      | some (tokens, mode) => (lex rest mode).map (Token.word acc.reverse :: tokens ++ ·)
      | none => none
  | ch :: rest, .between =>
    if isWordChar ch then lex rest (.inWord [ch])
    else
      match separator ch with
      | some (tokens, mode) => (lex rest mode).map (tokens ++ ·)
      | none => none

/-- The value of a digit in base `base`. Hexadecimal letters of either case are digits (DESIGN CHOICE, log entry 16). -/
def digit (base : Nat) (ch : Char) : Option Nat :=
  let n := ch.toNat
  let d :=
    if 48 ≤ n ∧ n ≤ 57 then n - 48
    else if 65 ≤ n ∧ n ≤ 70 then n - 55
    else if 97 ≤ n ∧ n ≤ 102 then n - 87
    else base
  if d < base then some d else none

/-- A number from its digits, most significant first. -/
def digits (base : Nat) : List Char → Nat → Option Nat
  | [], acc => some acc
  | ch :: rest, acc =>
    match digit base ch with
    | some d => digits base rest (acc * base + d)
    | none => none

/-- A decimal or `0x` hexadecimal literal (R7, R86). Leading zeros are allowed, and the prefix `0X` is not (DESIGN
CHOICE, log entry 16). -/
def number : List Char → Option Nat
  | [] => none
  | '0' :: 'x' :: ch :: rest => digits 16 (ch :: rest) 0
  | chars => digits 10 chars 0

/-- An operand as written: a name or a number (R86). -/
inductive Operand where
  | name (s : String)
  | num (n : Nat)
deriving DecidableEq, Repr

/-- A quoted word is a name, be it empty; a bare word that begins with a digit is a number or nothing, and any other is a
name (R86; which of the two a bare word is, DESIGN CHOICE, log entry 16). -/
def operand : Token → Option Operand
  | .quoted chars => some (.name (String.ofList chars))
  | .word (ch :: rest) =>
    if ch.isDigit then (number (ch :: rest)).map .num else some (.name (String.ofList (ch :: rest)))
  | _ => none

/-- The operands after the opening parenthesis's first, up to the closing one, which ends the call. -/
def moreOperands : List Token → Option (List Operand)
  | [.rpar] => some []
  | .comma :: tok :: rest =>
    match operand tok, moreOperands rest with
    | some x, some xs => some (x :: xs)
    | _, _ => none
  | _ => none

/-- The operands of a call. -/
def operands : List Token → Option (List Operand)
  | [.rpar] => some []
  | tok :: rest =>
    match operand tok, moreOperands rest with
    | some x, some xs => some (x :: xs)
    | _, _ => none
  | [] => none

/-- A channel or mode operand; a number must fit its 8-bit port (R26, D2). -/
def selOf : Operand → Option Sel
  | .name s => some (.name s)
  | .num n => if n < 256 then some (.code (BitVec.ofNat 8 n)) else none

/-- A value operand: a number that fits its 16-bit port; it has no symbolic form (R81, D2). -/
def valueOf : Operand → Option (BitVec 16)
  | .name _ => none
  | .num n => if n < 65536 then some (BitVec.ofNat 16 n) else none

/-- The operation a mnemonic and its operands name, in the order of the signature (R73, R84, R86). -/
def callOf (mnemonic : String) (args : List Operand) : Option Instr :=
  match mnemonic, args with
  | "writeInputRegister", [c, v] => do return .writeInputRegister (← selOf c) (← valueOf v)
  | "updateDacRegister", [c] => do return .updateDacRegister (← selOf c)
  | "writeInputRegisterUpdateAll", [c, v] => do return .writeInputRegisterUpdateAll (← selOf c) (← valueOf v)
  | "writeAndUpdateChannel", [c, v] => do return .writeAndUpdateChannel (← selOf c) (← valueOf v)
  | "setPowerMode", [m, c] => do return .setPowerMode (← selOf m) (← selOf c)
  | "setClearCodeMode", [m] => do return .setClearCodeMode (← selOf m)
  | "setLdacMode", [m, c] => do return .setLdacMode (← selOf m) (← selOf c)
  | "reset", [] => some .reset
  | "setInternalReferenceMode", [m] => do return .setInternalReferenceMode (← selOf m)
  | _, _ => none

/-- Read a call (R86). -/
def parseCall (text : String) : Option Instr :=
  match lex text.toList .between with
  | some (.word mnemonic :: .lpar :: rest) =>
    match operands rest with
    | some args => callOf (String.ofList mnemonic) args
    | none => none
  | _ => none

/-- Write a selector: a name in double quotes, a code in decimal (R86). A name that holds a double quote has no spelling
that reads back (log entry 16). -/
def selText : Sel → String
  | .name s => "\"" ++ s ++ "\""
  | .code n => toString n.toNat

/-- The mnemonic of each operation (R73). -/
def mnemonic : Instr → String
  | .writeInputRegister _ _ => "writeInputRegister"
  | .updateDacRegister _ => "updateDacRegister"
  | .writeInputRegisterUpdateAll _ _ => "writeInputRegisterUpdateAll"
  | .writeAndUpdateChannel _ _ => "writeAndUpdateChannel"
  | .setPowerMode _ _ => "setPowerMode"
  | .setClearCodeMode _ => "setClearCodeMode"
  | .setLdacMode _ _ => "setLdacMode"
  | .reset => "reset"
  | .setInternalReferenceMode _ => "setInternalReferenceMode"

/-- The operands of each operation as written, in the order of its signature (R84). -/
def operandTexts : Instr → List String
  | .writeInputRegister chan value => [selText chan, toString value.toNat]
  | .updateDacRegister chan => [selText chan]
  | .writeInputRegisterUpdateAll chan value => [selText chan, toString value.toNat]
  | .writeAndUpdateChannel chan value => [selText chan, toString value.toNat]
  | .setPowerMode mode chan => [selText mode, selText chan]
  | .setClearCodeMode mode => [selText mode]
  | .setLdacMode mode chan => [selText mode, selText chan]
  | .reset => []
  | .setInternalReferenceMode mode => [selText mode]

/-- Write a call (R86). -/
def callText (i : Instr) : String :=
  mnemonic i ++ "(" ++ String.intercalate ", " (operandTexts i) ++ ")"

end Sys2Proof.CallText
end

