-- ==== Sys2Proof/Machine/Construct.lean ====
section
/-! DEFINITION. Construction of a block instance (R180). -/

namespace Sys2Proof.Machine

/-- `Construct(modelId)` (R180) for the device table `table`: the state after construction, or the fault
UnknownDeviceModel and no instance (R154). Identifiers are matched exactly. -/
def construct (table : DeviceTable) (modelId : String) : Host.Outcome State Fault Refusal :=
  match table.lookup modelId with
  | some m => .next (State.constructed m)
  | none => .fault .unknownDeviceModel

end Sys2Proof.Machine
end

