-- ==== Sys2Proof/Safety.lean ====
section
/-! DEFINITION. The terms claims are stated in: what a request that transmits leaves behind, what one that is
rejected leaves behind, the payload bits of each format, and the invariant of the block. -/

namespace Sys2Proof.Safety

open Sys2Proof.Machine

/-- From `s`, a request that sent the word `w` ended in `t` (R85): one transmit event with the transport's answer,
the status that answer gives, PHASE IDLE, one position further, one draw used, and nothing else changed. CMD_WORD and
the free-value counter are left out: the first is unspecified outside a request (R35), the second is the model's. -/
structure Transmitted (s t : State) (w : Word) : Prop where
  txLog : t.txLog = s.txLog ++ [{ bytes := serialize w, outcome := s.nextOutcome }]
  status : t.status = match s.nextOutcome with
    | .ok => Status.ok
    | .fail => Status.transportFailure
  statusLog : t.statusLog = s.statusLog ++ [t.status]
  phase : t.phase = .idle
  k : t.k = s.k + 1
  draws : t.draws = s.draws.tail
  cfg : t.cfg = s.cfg
  program : t.program = s.program
  resets : t.resets = s.resets

/-- From `s`, a request that raised the validation error `e` ended in `t` (R152, R157): STATUS, the status log, PHASE
back to IDLE, one position further, and every other field as it was. -/
def Rejected (s t : State) (e : Status) : Prop :=
  t = { s with phase := .idle, status := e, statusLog := s.statusLog ++ [e], k := s.k + 1 }

/-- The statuses of a validation error (R152). -/
def validationErrors : List Status :=
  [.invalidChannel, .invalidMode, .invalidValue, .invalidOperation]

/-- The DATA bits the format of a command opcode has fields in (R74): all others are 0 in every word (R89). -/
def dataFields (dw : DataWidth) (cmd : Nat) : Payload :=
  match cmd with
  | 0 | 2 | 3 =>
    match dw with
    | .w12 => 0xFFF00
    | .w14 => 0xFFFC0
    | .w16 => 0xFFFF0
  | 4 => 0x083FF
  | 5 => 0x00003
  | 6 => 0x080FF
  | 8 => 0x00001
  | _ => 0

/-- The ops that read `chan` (R26, R84). -/
def readsChan (op : Nibble) : Bool := [0, 1, 2, 3, 4, 6].contains op.toNat

/-- The ops that read `mode` (R26, R84). -/
def readsMode (op : Nibble) : Bool := [4, 5, 6, 8].contains op.toNat

/-- The ops that read `value` (R26, R84). -/
def readsValue (op : Nibble) : Bool := [0, 2, 3].contains op.toNat

/-- Two requests agree on every field their op reads. -/
def AgreeOnRead (r r' : Request) : Prop :=
  r.op = r'.op ∧ (readsChan r.op = true → r.chan = r'.chan) ∧ (readsMode r.op = true → r.mode = r'.mode) ∧
    (readsValue r.op = true → r.value = r'.value)

/-- How many transmits of a log were answered with `o`. -/
def answered (o : TransportOutcome) (log : List TransmitEvent) : Nat :=
  log.countP (fun e => e.outcome == o)

/-- The invariant of the block between steps. -/
structure Inv (s : State) : Prop where
  /-- No request is in progress between steps (R29). -/
  idle : s.phase = .idle
  /-- STATUS never holds UnknownDeviceModel (R150). -/
  held : s.status ≠ .unknownDeviceModel
  /-- STATUS is NONE or the status returned last (R32). -/
  latest : s.status = .none ∨ s.statusLog.getLast? = some s.status
  /-- NONE and UnknownDeviceModel are never returned (R150, R154). -/
  returned : ∀ st ∈ s.statusLog, st ≠ .none ∧ st ≠ .unknownDeviceModel
  /-- Every word transmitted is a legal word of the block's data width (R89, R92). -/
  legal : ∀ e ∈ s.txLog, legalWord s.cfg.dataWidth (deserialize e.bytes) = true
  /-- The transmits answered `ok` are exactly the requests that ended OK (R150, R152). -/
  oks : answered .ok s.txLog = s.statusLog.count .ok
  /-- Each TransportFailure has its transmit; a failed transmit without one was interrupted by a block reset
  (R153, R181). -/
  fails : s.statusLog.count .transportFailure ≤ answered .fail s.txLog

end Sys2Proof.Safety
end

