-- ==== Sys2Proof/Certificates/Slice0/Obligations.lean ====
section
/-! DEFINITION. The statements for the provers, each with the rule of spec/ it formalises or the sections it rests
on. None rests on a value the model chose, except where its docstring names the log entry. -/

open Sys2Proof Sys2Proof.Machine Sys2Proof.Safety

/-! ### Words and bytes -/

/-- R71 with the fields of R70: `Pack` puts each field in its own bits and PAD is 0; since the fields are disjoint
the OR is a sum. -/
def Obligations.PackPlacesEachField : Prop :=
  ∀ (cmd addr : Nibble) (data : Payload),
    (pack cmd addr data).extractLsb' 28 4 = 0 ∧
    (pack cmd addr data).extractLsb' 24 4 = cmd ∧
    (pack cmd addr data).extractLsb' 20 4 = addr ∧
    (pack cmd addr data).extractLsb' 0 20 = data ∧
    (pack cmd addr data).toNat = cmd.toNat * 2 ^ 24 + addr.toNat * 2 ^ 20 + data.toNat

/-- R52: four bytes, the most significant first. -/
def Obligations.SerializeMostSignificantFirst : Prop :=
  ∀ w : Word,
    (serialize w).b0.toNat = w.toNat / 2 ^ 24 ∧
    (serialize w).b1.toNat = w.toNat / 2 ^ 16 % 2 ^ 8 ∧
    (serialize w).b2.toNat = w.toNat / 2 ^ 8 % 2 ^ 8 ∧
    (serialize w).b3.toNat = w.toNat % 2 ^ 8

/-- R53: the bit stream of a transmitted word is bit 31 first and bit 0 last. -/
def Obligations.WireBitsFromBit31Down : Prop :=
  ∀ w : Word, wireBits (serialize w) = (List.range 32).map (fun n => w.getLsbD (31 - n))

/-- R57 (decision D13): after `fail`, what may have been delivered is any prefix of the 32 bits and nothing else. -/
def Obligations.FailedTransmitMayDeliverAnyPrefix : Prop :=
  ∀ (w : Word) (bits : List Bool),
    mayDeliver { bytes := serialize w, outcome := .fail } bits = true ↔
      ∃ n ≤ 32, bits = ((List.range 32).map (fun j => w.getLsbD (31 - j))).take n

/-! ### Encoding and decoding -/

/-- Decode and encode agree: every well-formed instruction has a word, and decoding it gives the instruction with
every operand. Rests on the decoder's choice of channel 0 for an LDAC word of mode HW only through `wellFormed`
(log entry 10). -/
def Obligations.DecodeOfEncodeIsTheInstruction : Prop :=
  ∀ (dw : DataWidth) (i : Instr), wellFormed dw i = true →
    ∃ w, encode dw i = some w ∧ decodeWord dw w = .ok i

/-- The other direction: a word that decodes is the word of the instruction it decodes to, which is well-formed. That
the decoder answers operands as codes, and channel code 0 for the LDAC word 0x06000000, which carries no channel (R92),
is the model's choice (log entry 10). -/
def Obligations.EncodeOfDecodeIsTheWord : Prop :=
  ∀ (dw : DataWidth) (w : Word) (i : Instr), decodeWord dw w = .ok i →
    wellFormed dw i = true ∧ encode dw i = some w

/-- The decoder accepts exactly the words of `LegalWord` (R92, derived there from the formats). -/
def Obligations.DecoderAcceptsExactlyTheLegalWords : Prop :=
  ∀ (dw : DataWidth) (w : Word), legalWord dw w = true ↔ ∃ i, decodeWord dw w = .ok i

/-- The words the block can produce are exactly the legal words (R92, derived there from the formats). That ALL_DAC
sets bit 15 of a power-down or LDAC word is the spec's own decision D5. -/
def Obligations.ProducedWordsAreExactlyTheLegalWords : Prop :=
  ∀ (m : DeviceModel) (w : Word), legalWord m.dataWidth w = true ↔ ∃ i, buildWord m i = .ok w

/-- The word an operation builds by shift and OR is the word the opcode table's bit pattern gives it. -/
def Obligations.BuiltWordIsTheTablePattern : Prop :=
  ∀ (m : DeviceModel) (i : Instr), wellFormed m.dataWidth i = true →
    ∃ w, encode m.dataWidth i = some w ∧ buildWord m i = .ok w

/-- R73: the CMD field of every word is its operation's opcode, one of nine fixed values. -/
def Obligations.CommandOpcodeIsFixed : Prop :=
  (∀ (m : DeviceModel) (i : Instr) (w : Word), buildWord m i = .ok w → w.extractLsb' 24 4 = opcode i) ∧
  (∀ c v, opcode (.writeInputRegister c v) = 0x0) ∧
  (∀ c, opcode (.updateDacRegister c) = 0x1) ∧
  (∀ c v, opcode (.writeInputRegisterUpdateAll c v) = 0x2) ∧
  (∀ c v, opcode (.writeAndUpdateChannel c v) = 0x3) ∧
  (∀ m c, opcode (.setPowerMode m c) = 0x4) ∧
  (∀ m, opcode (.setClearCodeMode m) = 0x5) ∧
  (∀ m c, opcode (.setLdacMode m c) = 0x6) ∧
  opcode .reset = 0x7 ∧
  (∀ m, opcode (.setInternalReferenceMode m) = 0x8)

/-- R89: PAD is 0; ADDR is never 0x8 to 0xE and is 0 for CMD 0x4 to 0x8; DATA is 0 outside the format's fields. -/
def Obligations.UnusedBitsOfEveryWordAreZero : Prop :=
  ∀ (m : DeviceModel) (i : Instr) (w : Word), buildWord m i = .ok w →
    w.extractLsb' 28 4 = 0 ∧
    ¬ (8 ≤ (w.extractLsb' 20 4).toNat ∧ (w.extractLsb' 20 4).toNat ≤ 14) ∧
    (4 ≤ (w.extractLsb' 24 4).toNat → w.extractLsb' 20 4 = 0) ∧
    w.extractLsb' 0 20 &&& ~~~ dataFields m.dataWidth (w.extractLsb' 24 4).toNat = 0

/-- R121: a power-down word sets exactly one channel bit, an LDAC word at most one, none when its mode is HW. -/
def Obligations.OneChannelBitPerWord : Prop :=
  (∀ m mode chan w, buildWord m (.setPowerMode mode chan) = .ok w → channelBitCount w = 1) ∧
  (∀ m mode chan w, buildWord m (.setLdacMode mode chan) = .ok w →
    channelBitCount w = if resolveMode ldacTable mode = .ok 0 then 0 else 1)

/-- Words written out bit by bit from the table's patterns decode to what they stand for, and reserved words are
refused by name. -/
def Obligations.WrittenOutWordsDecode : Prop :=
  decodeWord .w12 0b0000_0000_0010_100000000000_00000000#32 = .ok (.writeInputRegister (.code 2) 0x800) ∧
  decodeWord .w16 0b0000_0001_1111_00000000000000000000#32 = .ok (.updateDacRegister (.code 15)) ∧
  decodeWord .w16 0b0000_0010_0111_1000000000000000_0000#32 = .ok (.writeInputRegisterUpdateAll (.code 7) 0x8000) ∧
  decodeWord .w14 0b0000_0011_0001_10101010101010_000000#32 = .ok (.writeAndUpdateChannel (.code 1) 0x2AAA) ∧
  decodeWord .w12 0b0000_0100_00000000_0_00000_10_00001000#32 = .ok (.setPowerMode (.code 2) (.code 3)) ∧
  decodeWord .w12 0b0000_0101_0000000000000000000000_01#32 = .ok (.setClearCodeMode (.code 1)) ∧
  decodeWord .w12 0b0000_0110_00000000_0_0000000_00100000#32 = .ok (.setLdacMode (.code 1) (.code 5)) ∧
  decodeWord .w12 0b0000_0111_000000000000000000000000#32 = .ok .reset ∧
  decodeWord .w12 0b0000_1000_00000000000000000000000_1#32 = .ok (.setInternalReferenceMode (.code 1)) ∧
  decodeWord .w12 0x09000000#32 = .error .reservedOpcode ∧
  decodeWord .w12 0x04000003#32 = .error .severalChannelBits

/-- The examples of the call syntax of R86 read as the spec says (the syntax is the spec's own, decision D7). -/
def Obligations.CallSyntaxExamplesRead : Prop :=
  CallText.parseCall "writeInputRegister(DAC_A, 0x800)" = some (.writeInputRegister (.name "DAC_A") 2048) ∧
  CallText.parseCall "writeInputRegister(0, 2048)" = some (.writeInputRegister (.code 0) 2048) ∧
  CallText.parseCall "setPowerMode(TRISTATE, 3)" = some (.setPowerMode (.name "TRISTATE") (.code 3)) ∧
  CallText.parseCall "setInternalReferenceMode(\"ON\")" = some (.setInternalReferenceMode (.name "ON")) ∧
  CallText.parseCall "reset()" = some .reset

/-! ### Operands -/

/-- R78: the channels accepted are the names of the channel table and the codes 0 to 7 and 15, each giving its code;
every other name and code raises InvalidChannel. -/
def Obligations.ChannelResolution : Prop :=
  (∀ s c, (s, c) ∈ channelTable → resolveChannel (.name s) = .ok c) ∧
  (∀ s, s ∉ channelTable.map Prod.fst → resolveChannel (.name s) = .error .invalidChannel) ∧
  (∀ n : BitVec 8, resolveChannel (.code n) =
    if n.toNat ∈ [0, 1, 2, 3, 4, 5, 6, 7, 15] then .ok (BitVec.ofNat 4 n.toNat) else .error .invalidChannel) ∧
  (∀ x c, resolveChannel x = .ok c → c.toNat ∈ [0, 1, 2, 3, 4, 5, 6, 7, 15])

/-- The channel names and their codes in letter order: the spec's own pairing (decision D6). -/
def Obligations.ChannelNamesInLetterOrder : Prop :=
  ["DAC_A", "DAC_B", "DAC_C", "DAC_D", "DAC_E", "DAC_F", "DAC_G", "DAC_H", "ALL_DAC"].map
      (fun s => resolveChannel (.name s)) =
    [.ok 0, .ok 1, .ok 2, .ok 3, .ok 4, .ok 5, .ok 6, .ok 7, .ok 15] ∧
  resolveChannel (.name "DAC_Z") = .error .invalidChannel ∧
  resolveChannel (.name "dac_a") = .error .invalidChannel

/-- R80: against each of the four tables, a name of the table gives its code, a code of the table gives itself
(0 to 3 for POWER and CLEAR, 0 and 1 for LDAC and REF), and everything else raises InvalidMode; the result fits its
field. -/
def Obligations.ModeResolution : Prop :=
  (∀ table ∈ [powerTable, clearTable, ldacTable, refTable],
    (∀ s m, (s, m) ∈ table → resolveMode table (.name s) = .ok m) ∧
    (∀ s, s ∉ table.map Prod.fst → resolveMode table (.name s) = .error .invalidMode)) ∧
  (∀ n : BitVec 8, ∀ table ∈ [powerTable, clearTable],
    resolveMode table (.code n) = if n.toNat < 4 then .ok (BitVec.ofNat 2 n.toNat) else .error .invalidMode) ∧
  (∀ n : BitVec 8, ∀ table ∈ [ldacTable, refTable],
    resolveMode table (.code n) = if n.toNat < 2 then .ok (BitVec.ofNat 2 n.toNat) else .error .invalidMode) ∧
  (∀ x m, resolveMode ldacTable x = .ok m ∨ resolveMode refTable x = .ok m → m.toNat < 2)

/-- The mode names and their codes. The names of LDAC (decision D8) and the two names of clear code 3 (decision D9)
are the spec's own. -/
def Obligations.ModeNames : Prop :=
  ["NORMAL", "PULL-1K-TO-GND", "PULL-100K-TO-GND", "TRISTATE"].map (fun s => resolveMode powerTable (.name s)) =
    [.ok 0, .ok 1, .ok 2, .ok 3] ∧
  ["ZERO", "MIDSCALE", "FULLSCALE", "NORMAL", "NOP"].map (fun s => resolveMode clearTable (.name s)) =
    [.ok 0, .ok 1, .ok 2, .ok 3, .ok 3] ∧
  ["HW", "SW"].map (fun s => resolveMode ldacTable (.name s)) = [.ok 0, .ok 1] ∧
  ["OFF", "ON"].map (fun s => resolveMode refTable (.name s)) = [.ok 0, .ok 1] ∧
  resolveMode clearTable (.name "TRISTATE") = .error .invalidMode ∧
  resolveMode powerTable (.name "FOO") = .error .invalidMode

/-- R75's source sentence: the name and the code of one selector give identical words (and, by decision D8, a boolean
is its code), for every operation that takes the selector. -/
def Obligations.NameAndCodeBuildTheSameWord : Prop :=
  (∀ s c, (s, c) ∈ channelTable → ∀ (m : DeviceModel) (v : BitVec 16) (mode : Sel),
    let name := Sel.name s
    let code := Sel.code (c.setWidth 8)
    buildWord m (.writeInputRegister name v) = buildWord m (.writeInputRegister code v) ∧
    buildWord m (.updateDacRegister name) = buildWord m (.updateDacRegister code) ∧
    buildWord m (.writeInputRegisterUpdateAll name v) = buildWord m (.writeInputRegisterUpdateAll code v) ∧
    buildWord m (.writeAndUpdateChannel name v) = buildWord m (.writeAndUpdateChannel code v) ∧
    buildWord m (.setPowerMode mode name) = buildWord m (.setPowerMode mode code) ∧
    buildWord m (.setLdacMode mode name) = buildWord m (.setLdacMode mode code)) ∧
  (∀ (s : String) (c : BitVec 2) (m : DeviceModel) (chan : Sel),
    let name := Sel.name s
    let code := Sel.code (c.setWidth 8)
    ((s, c) ∈ powerTable → buildWord m (.setPowerMode name chan) = buildWord m (.setPowerMode code chan)) ∧
    ((s, c) ∈ clearTable → buildWord m (.setClearCodeMode name) = buildWord m (.setClearCodeMode code)) ∧
    ((s, c) ∈ ldacTable → buildWord m (.setLdacMode name chan) = buildWord m (.setLdacMode code chan)) ∧
    ((s, c) ∈ refTable →
      buildWord m (.setInternalReferenceMode name) = buildWord m (.setInternalReferenceMode code))) ∧
  (∀ b : Bool, Sel.ofBool b = .code (if b then 1 else 0))

/-- R25: SHIFT is 20 less the data width. -/
def Obligations.ShiftOfEachDataWidth : Prop :=
  ∀ m : DeviceModel,
    (m.dataWidth = .w12 → shiftOf m = 8) ∧ (m.dataWidth = .w14 → shiftOf m = 6) ∧
    (m.dataWidth = .w16 → shiftOf m = 4)

/-- A value passes exactly when it is below 2^dataWidth (decision D4), and then shifting it loses nothing: it stays
below 2^20 and never reaches ADDR. -/
def Obligations.CheckedValueNeverLeavesData : Prop :=
  ∀ (m : DeviceModel) (v : BitVec 16),
    (v.toNat < 2 ^ m.dataWidth.bits → checkValue m v = .ok v ∧
      (alignValue m v).toNat = v.toNat * 2 ^ (20 - m.dataWidth.bits) ∧
      v.toNat * 2 ^ (20 - m.dataWidth.bits) < 2 ^ 20) ∧
    (2 ^ m.dataWidth.bits ≤ v.toNat → checkValue m v = .error .invalidValue)

/-- A field an operation does not read has no effect on the word, the status or any check (decision D20). -/
def Obligations.IgnoredFieldsHaveNoEffect : Prop :=
  ∀ (m : DeviceModel) (r r' : Request), AgreeOnRead r r' → buildRequest m r = buildRequest m r'

/-! ### The nine operations

Each says, for every operand and every state of an idle block: with operands that pass their checks `exec` answers a
next state in which exactly the rule's word was sent and the rule's status written, with nothing else changed
(`Transmitted`); with an operand that fails, the first failing check in the signature's order gives the status, and
nothing else changes (`Rejected`). -/

/-- R100, its property formula `(0x0<<24) | (c<<20) | (v << (20-w))` and its errors. -/
def Obligations.WriteInputRegisterSendsShiftedValue : Prop :=
  ∀ (chan : Sel) (value : BitVec 16) (s : State), s.phase = .idle →
    (∀ c, resolveChannel chan = .ok c → value.toNat < 2 ^ s.cfg.dataWidth.bits →
      ∃ t, exec (.writeInputRegister chan value) s = .next t ∧
        Transmitted s t ((0x0#32 <<< 24) ||| (c.setWidth 32 <<< 20) |||
          (value.setWidth 32 <<< (20 - s.cfg.dataWidth.bits)))) ∧
    (∀ c, resolveChannel chan = .ok c → 2 ^ s.cfg.dataWidth.bits ≤ value.toNat →
      ∃ t, exec (.writeInputRegister chan value) s = .next t ∧ Rejected s t .invalidValue) ∧
    ((∀ c, resolveChannel chan ≠ .ok c) →
      ∃ t, exec (.writeInputRegister chan value) s = .next t ∧ Rejected s t .invalidChannel)

/-- R101, its property formula `(0x1<<24) | (c<<20)` and its error. -/
def Obligations.UpdateDacRegisterSendsChannel : Prop :=
  ∀ (chan : Sel) (s : State), s.phase = .idle →
    (∀ c, resolveChannel chan = .ok c →
      ∃ t, exec (.updateDacRegister chan) s = .next t ∧
        Transmitted s t ((0x1#32 <<< 24) ||| (c.setWidth 32 <<< 20))) ∧
    ((∀ c, resolveChannel chan ≠ .ok c) →
      ∃ t, exec (.updateDacRegister chan) s = .next t ∧ Rejected s t .invalidChannel)

/-- R102: the layout of R100 with CMD 0x2. -/
def Obligations.WriteInputRegisterUpdateAllSendsShiftedValue : Prop :=
  ∀ (chan : Sel) (value : BitVec 16) (s : State), s.phase = .idle →
    (∀ c, resolveChannel chan = .ok c → value.toNat < 2 ^ s.cfg.dataWidth.bits →
      ∃ t, exec (.writeInputRegisterUpdateAll chan value) s = .next t ∧
        Transmitted s t ((0x2#32 <<< 24) ||| (c.setWidth 32 <<< 20) |||
          (value.setWidth 32 <<< (20 - s.cfg.dataWidth.bits)))) ∧
    (∀ c, resolveChannel chan = .ok c → 2 ^ s.cfg.dataWidth.bits ≤ value.toNat →
      ∃ t, exec (.writeInputRegisterUpdateAll chan value) s = .next t ∧ Rejected s t .invalidValue) ∧
    ((∀ c, resolveChannel chan ≠ .ok c) →
      ∃ t, exec (.writeInputRegisterUpdateAll chan value) s = .next t ∧ Rejected s t .invalidChannel)

/-- R103's operation: the same layout with CMD 0x3, which is the spec's own (decision D22). -/
def Obligations.WriteAndUpdateChannelSendsShiftedValue : Prop :=
  ∀ (chan : Sel) (value : BitVec 16) (s : State), s.phase = .idle →
    (∀ c, resolveChannel chan = .ok c → value.toNat < 2 ^ s.cfg.dataWidth.bits →
      ∃ t, exec (.writeAndUpdateChannel chan value) s = .next t ∧
        Transmitted s t ((0x3#32 <<< 24) ||| (c.setWidth 32 <<< 20) |||
          (value.setWidth 32 <<< (20 - s.cfg.dataWidth.bits)))) ∧
    (∀ c, resolveChannel chan = .ok c → 2 ^ s.cfg.dataWidth.bits ≤ value.toNat →
      ∃ t, exec (.writeAndUpdateChannel chan value) s = .next t ∧ Rejected s t .invalidValue) ∧
    ((∀ c, resolveChannel chan ≠ .ok c) →
      ∃ t, exec (.writeAndUpdateChannel chan value) s = .next t ∧ Rejected s t .invalidChannel)

/-- R120's operation, its property formula `(0x4<<24) | (modeCode<<8) | (1<<c)` and its errors, the mode checked
first. For ALL_DAC the formula gives bit 15 by the spec's own decision D5; the order is its decision D10. -/
def Obligations.SetPowerModeSendsModeAndChannelBit : Prop :=
  ∀ (mode chan : Sel) (s : State), s.phase = .idle →
    (∀ m c, resolveMode powerTable mode = .ok m → resolveChannel chan = .ok c →
      ∃ t, exec (.setPowerMode mode chan) s = .next t ∧
        Transmitted s t ((0x4#32 <<< 24) ||| (m.setWidth 32 <<< 8) ||| (1#32 <<< c.toNat))) ∧
    (∀ m, resolveMode powerTable mode = .ok m → (∀ c, resolveChannel chan ≠ .ok c) →
      ∃ t, exec (.setPowerMode mode chan) s = .next t ∧ Rejected s t .invalidChannel) ∧
    ((∀ m, resolveMode powerTable mode ≠ .ok m) →
      ∃ t, exec (.setPowerMode mode chan) s = .next t ∧ Rejected s t .invalidMode)

/-- R122, its property formula `(0x5<<24) | modeCode` and its error. -/
def Obligations.SetClearCodeModeSendsMode : Prop :=
  ∀ (mode : Sel) (s : State), s.phase = .idle →
    (∀ m, resolveMode clearTable mode = .ok m →
      ∃ t, exec (.setClearCodeMode mode) s = .next t ∧ Transmitted s t ((0x5#32 <<< 24) ||| m.setWidth 32)) ∧
    ((∀ m, resolveMode clearTable mode ≠ .ok m) →
      ∃ t, exec (.setClearCodeMode mode) s = .next t ∧ Rejected s t .invalidMode)

/-- R123's operation, its property formula `(0x6<<24) | (bit<<c)` and its errors; the channel is checked in mode HW
too. For ALL_DAC the formula gives bit 15 by the spec's own decision D5; the order is its decision D10. -/
def Obligations.SetLdacModeSendsModeAtChannelBit : Prop :=
  ∀ (mode chan : Sel) (s : State), s.phase = .idle →
    (∀ m c, resolveMode ldacTable mode = .ok m → resolveChannel chan = .ok c →
      ∃ t, exec (.setLdacMode mode chan) s = .next t ∧
        Transmitted s t ((0x6#32 <<< 24) ||| (m.setWidth 32 <<< c.toNat))) ∧
    (∀ m, resolveMode ldacTable mode = .ok m → (∀ c, resolveChannel chan ≠ .ok c) →
      ∃ t, exec (.setLdacMode mode chan) s = .next t ∧ Rejected s t .invalidChannel) ∧
    ((∀ m, resolveMode ldacTable mode ≠ .ok m) →
      ∃ t, exec (.setLdacMode mode chan) s = .next t ∧ Rejected s t .invalidMode)

/-- R124: whatever the state and configuration, exactly the four bytes 0x07 0x00 0x00 0x00; no check can fail. -/
def Obligations.ResetCommandSendsFixedWord : Prop :=
  ∀ s : State, s.phase = .idle →
    serialize 0x07000000 = { b0 := 0x07, b1 := 0x00, b2 := 0x00, b3 := 0x00 } ∧
    ∃ t, exec .reset s = .next t ∧ Transmitted s t 0x07000000

/-- R126: the word `(0x8<<24) | enable`, and its error. -/
def Obligations.SetInternalReferenceModeSendsEnable : Prop :=
  ∀ (mode : Sel) (s : State), s.phase = .idle →
    (∀ m, resolveMode refTable mode = .ok m →
      ∃ t, exec (.setInternalReferenceMode mode) s = .next t ∧
        Transmitted s t ((0x8#32 <<< 24) ||| m.setWidth 32)) ∧
    ((∀ m, resolveMode refTable mode ≠ .ok m) →
      ∃ t, exec (.setInternalReferenceMode mode) s = .next t ∧ Rejected s t .invalidMode)

/-! ### The frame of execution and its errors -/

/-- R9: every operation on an idle block answers, either with a validation error and no transmit, or with exactly one
transmit, of four bytes, followed by OK or TransportFailure as the transport answered; and the same operation on any
other idle block of the same configuration sends the same bytes, or none again. -/
def Obligations.OperationsAreTotalAndDeterministic : Prop :=
  ∀ (i : Instr) (s : State), s.phase = .idle →
    ∃ t, exec i s = .next t ∧
      ((t.status ∈ validationErrors ∧ t.txLog = s.txLog ∧
          ∀ s' : State, s'.phase = .idle → s'.cfg = s.cfg →
            ∃ t', exec i s' = .next t' ∧ t'.status = t.status ∧ t'.txLog = s'.txLog) ∨
        ∃ b : WireBytes, t.txLog = s.txLog ++ [{ bytes := b, outcome := s.nextOutcome }] ∧
          t.status = (match s.nextOutcome with | .ok => .ok | .fail => .transportFailure) ∧
          ∀ s' : State, s'.phase = .idle → s'.cfg = s.cfg →
            ∃ t', exec i s' = .next t' ∧ t'.txLog = s'.txLog ++ [{ bytes := b, outcome := s'.nextOutcome }])

/-- The frame of R85: whatever an operation answers, it has appended at most one transmit event and exactly one status, written
that status to STATUS, left PHASE IDLE, advanced the position, and changed neither CFG nor the host's inputs. -/
def Obligations.OneStatusAndAtMostOneTransmit : Prop :=
  ∀ (i : Instr) (s t : State), exec i s = .next t →
    (∃ events, events.length ≤ 1 ∧ t.txLog = s.txLog ++ events ∧
      ∀ e ∈ events, e.outcome = s.nextOutcome) ∧
    t.statusLog = s.statusLog ++ [t.status] ∧ t.phase = .idle ∧ t.k = s.k + 1 ∧ t.cfg = s.cfg ∧
    t.program = s.program ∧ t.resets = s.resets

/-- R152: a request that ends in a validation error, an unused op select among them, has changed nothing but STATUS
and returned it: no transmit, no draw taken, CFG and CMD_WORD untouched. -/
def Obligations.ValidationErrorSendsNothing : Prop :=
  ∀ (s t : State) (r : Request), s.nextRequest = some r → presentRequest s = .next t →
    t.status ∈ validationErrors → Rejected s t t.status

/-- TransportFailure (R153) is raised exactly when every check passed and the transport answered `fail`; the event stays
in the log with outcome `fail`, now and after every later step; any prefix of the word may have arrived (the spec's own
decision D13). The block keeps no mark of it but STATUS: from one idle state, the states after the answers `fail` and
`ok` agree in every field but STATUS, the last status-log entry and the outcome of the last event (CMD_WORD and the
free-value counter apart, which R35 leaves open and log entry 5 explains); and a later operation does what it would do
after any other status. -/
def Obligations.TransportFailureKeepsTheEvent : Prop :=
  (∀ (i : Instr) (s t : State), exec i s = .next t →
    (t.status = .transportFailure ↔ (∃ w, buildWord s.cfg i = .ok w) ∧ s.nextOutcome = .fail) ∧
    (t.status = .transportFailure → ∃ w, buildWord s.cfg i = .ok w ∧
      t.txLog = s.txLog ++ [{ bytes := serialize w, outcome := .fail }] ∧
      ∀ n, mayDeliver { bytes := serialize w, outcome := .fail } ((wireBits (serialize w)).take n) = true)) ∧
  (∀ s t : State, step s = .next t → s.txLog <+: t.txLog) ∧
  (∀ (i : Instr) (s : State) (w : Word) (rest : List TransportOutcome),
    s.phase = .idle → buildWord s.cfg i = .ok w →
    ∃ failed sent, exec i { s with draws := .fail :: rest } = .next failed ∧
      exec i { s with draws := .ok :: rest } = .next sent ∧
      failed.statusLog = s.statusLog ++ [.transportFailure] ∧ sent.statusLog = s.statusLog ++ [.ok] ∧
      failed.txLog = s.txLog ++ [{ bytes := serialize w, outcome := .fail }] ∧
      sent.txLog = s.txLog ++ [{ bytes := serialize w, outcome := .ok }] ∧
      { failed with status := sent.status, statusLog := sent.statusLog, txLog := sent.txLog,
                    cmdWord := sent.cmdWord, fresh := sent.fresh } = sent) ∧
  (∀ (i : Instr) (s t : State) (st : Status), exec i s = .next t → exec i { s with status := st } = .next t)

/-- The transport is called only after every check has passed, and the status is OK exactly when it answered `ok`
(the numbers and names of the statuses are decision D11). -/
def Obligations.OkMeansTheTransportAnsweredOk : Prop :=
  ∀ (i : Instr) (s t : State), exec i s = .next t →
    (t.status = .ok ↔ (∃ w, buildWord s.cfg i = .ok w) ∧ s.nextOutcome = .ok) ∧
    ((∃ w, buildWord s.cfg i = .ok w) ↔ t.txLog ≠ s.txLog)

/-- The word and the status are a function of CFG, the request and the transport's outcome alone (decision D3): from
any two idle states that agree on CFG and on the answer, an operation appends the same event and the same status. -/
def Obligations.NoShadowState : Prop :=
  ∀ (i : Instr) (s s' : State), s.phase = .idle → s'.phase = .idle → s.cfg = s'.cfg →
    s.nextOutcome = s'.nextOutcome →
    ∃ t t' events, exec i s = .next t ∧ exec i s' = .next t' ∧ t.status = t'.status ∧
      t.txLog = s.txLog ++ events ∧ t'.txLog = s'.txLog ++ events

/-- While a request is in progress no other has a step (decision D16): it is refused. -/
def Obligations.OverlappingRequestIsRefused : Prop :=
  ∀ (i : Instr) (s : State), s.phase = .busy → exec i s = .refused .overlappingRequest

/-- Each op select 0x0 to 0x8 selects the operation whose opcode has that value, and 0x9 to 0xF select none
(decision D12); the operands of the selected operation are the request's own fields that R84 says it reads, in the
order of its signature. -/
def Obligations.OpSelectEqualsOpcode : Prop :=
  ∀ r : Request, (∀ i, decodeRequest r = some i → opcode i = r.op) ∧
    ((∃ i, decodeRequest r = some i) ↔ r.op.toNat ≤ 8) ∧
    (r.op = 0x0 → decodeRequest r = some (.writeInputRegister r.chan r.value)) ∧
    (r.op = 0x1 → decodeRequest r = some (.updateDacRegister r.chan)) ∧
    (r.op = 0x2 → decodeRequest r = some (.writeInputRegisterUpdateAll r.chan r.value)) ∧
    (r.op = 0x3 → decodeRequest r = some (.writeAndUpdateChannel r.chan r.value)) ∧
    (r.op = 0x4 → decodeRequest r = some (.setPowerMode r.mode r.chan)) ∧
    (r.op = 0x5 → decodeRequest r = some (.setClearCodeMode r.mode)) ∧
    (r.op = 0x6 → decodeRequest r = some (.setLdacMode r.mode r.chan)) ∧
    (r.op = 0x7 → decodeRequest r = some .reset) ∧
    (r.op = 0x8 → decodeRequest r = some (.setInternalReferenceMode r.mode))

/-! ### The machine -/

/-- A step runs the operation the request at the program position selects; the only thing it adds is that a quiet
draw of the reset line is used up (log entry 8). -/
def Obligations.StepRunsTheSelectedOperation : Prop :=
  ∀ (s : State) (r : Request) (i : Instr), s.program[s.k]? = some r → decodeRequest r = some i →
    (s.resets = [] → step s = exec i s) ∧
    (∀ rest, s.resets = .quiet :: rest → step s = exec i { s with resets := rest })

/-- A request with op select 0x9 to 0xF ends with InvalidOperation whatever its operands, and sends nothing
(decisions D10 and D12); a quiet draw of the reset line is used up (log entry 8). -/
def Obligations.UnusedOpSelectIsRejected : Prop :=
  ∀ (s : State) (r : Request), s.phase = .idle → s.program[s.k]? = some r → 9 ≤ r.op.toNat →
    (s.resets = [] → ∃ t, step s = .next t ∧ Rejected s t .invalidOperation) ∧
    (∀ rest, s.resets = .quiet :: rest →
      ∃ t, step s = .next t ∧ Rejected { s with resets := rest } t .invalidOperation)

/-- With no request to take and a quiet reset line the block waits, and nothing changes but that a quiet draw of the
line is used up: the model's reading of "waits for the first request" (log entries 6 and 8). -/
def Obligations.WaitsWithoutARequest : Prop :=
  ∀ s : State, s.program.length ≤ s.k →
    (s.resets = [] → step s = .next s) ∧
    (∀ rest, s.resets = .quiet :: rest → step s = .next { s with resets := rest })

/-- No operation and no event stops an idle block: every step from one answers a next state, idle again. For a request
this follows from R9, R29 and R157. That the block waits, idle, where there is no request to take is the model's reading
of R183 (log entry 6). A block reset leaves PHASE idle (R181, the spec's own decision D15), and where in a step the
reset line brings one is the model's choice (log entry 8). -/
def Obligations.IdleBlockAlwaysAnswers : Prop :=
  ∀ s : State, s.phase = .idle → ∃ t, step s = .next t ∧ t.phase = .idle

/-- R21: the DeviceModel of an instance has one of the widths, voltages and multipliers of the rule, and CFG is never
changed by a step: no request, no block reset and no error writes it. -/
def Obligations.CfgIsNeverChanged : Prop :=
  (∀ s t : State, step s = .next t → t.cfg = s.cfg ∧ t.cfgOut = s.cfgOut) ∧
  (∀ s : State, s.cfg.dataWidth.bits ∈ [12, 14, 16] ∧ s.cfg.referenceVoltage.milliVolts ∈ [2500, 5000] ∧
    s.cfg.powerUpMultiplier.multiplier ∈ [(0 : Rat), 1 / 2])

/-- The two logs are history: a step appends at most one entry to each and removes none, and a status it appends is
the one STATUS then holds. -/
def Obligations.LogsOnlyGrow : Prop :=
  ∀ s t : State, step s = .next t →
    ∃ events statuses, t.txLog = s.txLog ++ events ∧ t.statusLog = s.statusLog ++ statuses ∧
      events.length ≤ 1 ∧ statuses.length ≤ 1 ∧ ∀ st ∈ statuses, t.status = st

/-- The program is fixed and the position advances by exactly 1 with each completed request and never otherwise,
except that a host may start again at 0 after a block reset (decision D17; log entry 8). -/
def Obligations.PositionAdvancesWithEachStatus : Prop :=
  ∀ s t : State, step s = .next t →
    t.program = s.program ∧
    ((t.statusLog.length = s.statusLog.length + 1 ∧ t.k = s.k + 1) ∨
     (t.statusLog = s.statusLog ∧ t.k = s.k) ∨
     (t.statusLog = s.statusLog ∧ t.k = 0 ∧ ∃ point rest, s.resets = .arrives point true :: rest))

/-- STATUS is written only by the completion of a request, which also logs it, and by a block reset, which sets it
to NONE. -/
def Obligations.StatusWrittenOnlyAtCompletionOrReset : Prop :=
  ∀ s t : State, step s = .next t →
    t.statusLog = s.statusLog ++ [t.status] ∨
    (t.statusLog = s.statusLog ∧ t.status = s.status) ∨
    (t.statusLog = s.statusLog ∧ t.status = .none ∧ ∃ point restart rest, s.resets = .arrives point restart :: rest)

/-- The invariant `Inv` is kept by every step, from every state that has it: idle between steps; STATUS and the
status log in agreement; every transmitted word legal; the transmits answered `ok` exactly the requests that ended
OK. -/
def Obligations.EveryStepKeepsTheInvariant : Prop :=
  ∀ s t : State, Inv s → step s = .next t → Inv t

/-- The state after construction has the invariant, for every device model. -/
def Obligations.ConstructedStateHasTheInvariant : Prop :=
  ∀ m : DeviceModel, Inv (State.constructed m)

/-! ### Construction and reset -/

/-- R180: construction with an identifier of the table gives an instance with that row's configuration, IDLE, STATUS
NONE and empty logs; with any other it gives UnknownDeviceModel and no instance. -/
def Obligations.ConstructionFollowsTheTable : Prop :=
  ∀ (table : DeviceTable) (modelId : String), table.legal = true →
    (∀ m, (modelId, m) ∈ table → ∃ s, construct table modelId = .next s ∧ s.cfg = m ∧ s.phase = .idle ∧
      s.status = .none ∧ s.txLog = [] ∧ s.statusLog = []) ∧
    (modelId ∉ table.map Prod.fst → construct table modelId = .fault .unknownDeviceModel)

/-- Every legal device table constructs the model's reset state from "AD5628-1". That State.reset is this model's
construction is the model's choice (log entry 1). -/
def Obligations.ResetStateIsTheGivenModels : Prop :=
  ∀ table : DeviceTable, table.legal = true → construct table "AD5628-1" = .next State.reset

/-- The reset values of R37 (decisions D14 and D15): PHASE IDLE, STATUS NONE = 0b111, empty logs, k = 0, and CFG the
given row (12, 2.5 V, 0.0), whose port value is 0b0000. CFG's row is the model's choice (log entry 1); nothing is
said of CMD_WORD, which is unspecified. -/
def Obligations.ResetValues : Prop :=
  State.reset.phase = .idle ∧ State.reset.status = .none ∧ State.reset.status.code = 0b111 ∧
  State.reset.txLog = [] ∧ State.reset.statusLog = [] ∧ State.reset.k = 0 ∧
  State.reset.cfg.dataWidth.bits = 12 ∧ State.reset.cfg.referenceVoltage.milliVolts = 2500 ∧
  State.reset.cfg.powerUpMultiplier.multiplier = 0 ∧ State.reset.cfgOut = 0b0000

/-- The fields of CFG on `cfg_out[3:0]` (decision D18), 0b11 never among the DW values. -/
def Obligations.CfgFields : Prop :=
  ∀ m : DeviceModel,
    (cfgBits m).extractLsb' 0 2 = (match m.dataWidth with | .w12 => 0b00 | .w14 => 0b01 | .w16 => 0b10) ∧
    (cfgBits m).extractLsb' 2 1 = (match m.referenceVoltage with | .v2p5 => 0 | .v5p0 => 1) ∧
    (cfgBits m).extractLsb' 3 1 = (match m.powerUpMultiplier with | .zeroScale => 0 | .halfScale => 1) ∧
    (cfgBits m).extractLsb' 0 2 ≠ 0b11

/-- The 3-bit status codes (decision D11), all different. -/
def Obligations.StatusCodes : Prop :=
  Status.ok.code = 0b000 ∧ Status.invalidChannel.code = 0b001 ∧ Status.invalidMode.code = 0b010 ∧
  Status.invalidValue.code = 0b011 ∧ Status.invalidOperation.code = 0b100 ∧
  Status.transportFailure.code = 0b101 ∧ Status.unknownDeviceModel.code = 0b110 ∧ Status.none.code = 0b111 ∧
  ∀ a b : Status, a.code = b.code → a = b

/-- A block reset that arrives while IDLE, or in a request before its `Transmit`, sets PHASE to IDLE and STATUS to
NONE, leaves CFG and both logs unchanged and transmits nothing (decision D15). The same for a draw `duringTransmit` on
an idle block with no request to take: no `Transmit` is in flight (log entry 8). Where the host's program goes on is
log entry 8. -/
def Obligations.BlockResetKeepsCfgAndLogs : Prop :=
  ∀ (s : State) (point : ResetPoint) (restart : Bool) (rest : List ResetDraw),
    s.resets = .arrives point restart :: rest →
    (point = .duringTransmit → s.phase = .idle ∧ s.program[s.k]? = none) →
    ∃ t, step s = .next t ∧ t.phase = .idle ∧ t.status = .none ∧ t.cfg = s.cfg ∧ t.txLog = s.txLog ∧
      t.statusLog = s.statusLog ∧ t.program = s.program ∧ t.draws = s.draws ∧ t.resets = rest ∧
      t.k = if restart then 0 else s.k

/-- A block reset during a request's `Transmit` abandons it: the event is in the log with outcome `fail`, no status is
returned, and the block is IDLE with STATUS NONE (decision D15). By the model's choice (log entry 8) no draw of the
transport is taken, the position stays or starts again at 0, and for a request that fails a check the draw acts as a
block reset with no `Transmit` in flight: no event, no status. -/
def Obligations.BlockResetAbandonsTheRequest : Prop :=
  ∀ (s : State) (r : Request) (restart : Bool) (rest : List ResetDraw),
    s.phase = .idle → s.program[s.k]? = some r → s.resets = .arrives .duringTransmit restart :: rest →
    ∃ t, step s = .next t ∧ t.phase = .idle ∧ t.status = .none ∧ t.cfg = s.cfg ∧ t.statusLog = s.statusLog ∧
      t.program = s.program ∧ t.draws = s.draws ∧ t.resets = rest ∧ (t.k = if restart then 0 else s.k) ∧
      (∀ w, buildRequest s.cfg r = .ok w →
        t.txLog = s.txLog ++ [{ bytes := serialize w, outcome := .fail }]) ∧
      (∀ e, buildRequest s.cfg r = .error e → t.txLog = s.txLog)

/-- In a state already BUSY, where CMD_WORD is the word being transmitted (R35), a block reset during the `Transmit`
logs that word with outcome `fail` (decision D15). The draws and the position are log entry 8. -/
def Obligations.BlockResetLogsTheWordInProgress : Prop :=
  ∀ (s : State) (restart : Bool) (rest : List ResetDraw),
    s.phase = .busy → s.resets = .arrives .duringTransmit restart :: rest →
    ∃ t, step s = .next t ∧ t.phase = .idle ∧ t.status = .none ∧ t.cfg = s.cfg ∧ t.statusLog = s.statusLog ∧
      t.program = s.program ∧ t.draws = s.draws ∧ t.resets = rest ∧ (t.k = if restart then 0 else s.k) ∧
      t.txLog = s.txLog ++ [{ bytes := serialize s.cmdWord, outcome := .fail }]

/-- The encoding is not injective on requests: the clear-code names NORMAL and NOP give the same word (decision D9),
and mode HW gives 0x06000000 for every channel. -/
def Obligations.EncodingIsNotInjective : Prop :=
  (∀ m, buildWord m (.setClearCodeMode (.name "NORMAL")) = .ok 0x05000003 ∧
    buildWord m (.setClearCodeMode (.name "NOP")) = .ok 0x05000003) ∧
  (∀ m chan c, resolveChannel chan = .ok c → buildWord m (.setLdacMode (.name "HW") chan) = .ok 0x06000000)
end

