-- ==== Sys2Proof/Laws/State.lean ====
section
/-! SUPPORT. Field by field, what each update of State does: one lemma per update and field, true by definition, so
that no later proof unfolds an update. -/

namespace Sys2Proof.Machine

/-! ### accept -/

@[simp] theorem State.accept_cfg (s : State) :
    (s.accept).cfg = s.cfg := rfl
@[simp] theorem State.accept_phase (s : State) :
    (s.accept).phase = .busy := rfl
@[simp] theorem State.accept_status (s : State) :
    (s.accept).status = s.status := rfl
@[simp] theorem State.accept_cmdWord (s : State) :
    (s.accept).cmdWord = s.cmdWord := rfl
@[simp] theorem State.accept_txLog (s : State) :
    (s.accept).txLog = s.txLog := rfl
@[simp] theorem State.accept_statusLog (s : State) :
    (s.accept).statusLog = s.statusLog := rfl
@[simp] theorem State.accept_program (s : State) :
    (s.accept).program = s.program := rfl
@[simp] theorem State.accept_k (s : State) :
    (s.accept).k = s.k := rfl
@[simp] theorem State.accept_draws (s : State) :
    (s.accept).draws = s.draws := rfl
@[simp] theorem State.accept_resets (s : State) :
    (s.accept).resets = s.resets := rfl
@[simp] theorem State.accept_fresh (s : State) :
    (s.accept).fresh = s.fresh := rfl

/-! ### latch -/

@[simp] theorem State.latch_cfg (s : State) (w : Word) :
    (s.latch w).cfg = s.cfg := rfl
@[simp] theorem State.latch_phase (s : State) (w : Word) :
    (s.latch w).phase = s.phase := rfl
@[simp] theorem State.latch_status (s : State) (w : Word) :
    (s.latch w).status = s.status := rfl
@[simp] theorem State.latch_cmdWord (s : State) (w : Word) :
    (s.latch w).cmdWord = w := rfl
@[simp] theorem State.latch_txLog (s : State) (w : Word) :
    (s.latch w).txLog = s.txLog := rfl
@[simp] theorem State.latch_statusLog (s : State) (w : Word) :
    (s.latch w).statusLog = s.statusLog := rfl
@[simp] theorem State.latch_program (s : State) (w : Word) :
    (s.latch w).program = s.program := rfl
@[simp] theorem State.latch_k (s : State) (w : Word) :
    (s.latch w).k = s.k := rfl
@[simp] theorem State.latch_draws (s : State) (w : Word) :
    (s.latch w).draws = s.draws := rfl
@[simp] theorem State.latch_resets (s : State) (w : Word) :
    (s.latch w).resets = s.resets := rfl
@[simp] theorem State.latch_fresh (s : State) (w : Word) :
    (s.latch w).fresh = s.fresh := rfl

/-! ### logTransmit -/

@[simp] theorem State.logTransmit_cfg (s : State) (o : TransportOutcome) :
    (s.logTransmit o).cfg = s.cfg := rfl
@[simp] theorem State.logTransmit_phase (s : State) (o : TransportOutcome) :
    (s.logTransmit o).phase = s.phase := rfl
@[simp] theorem State.logTransmit_status (s : State) (o : TransportOutcome) :
    (s.logTransmit o).status = s.status := rfl
@[simp] theorem State.logTransmit_cmdWord (s : State) (o : TransportOutcome) :
    (s.logTransmit o).cmdWord = s.cmdWord := rfl
@[simp] theorem State.logTransmit_txLog (s : State) (o : TransportOutcome) :
    (s.logTransmit o).txLog = s.txLog ++ [{ bytes := serialize s.cmdWord, outcome := o }] := rfl
@[simp] theorem State.logTransmit_statusLog (s : State) (o : TransportOutcome) :
    (s.logTransmit o).statusLog = s.statusLog := rfl
@[simp] theorem State.logTransmit_program (s : State) (o : TransportOutcome) :
    (s.logTransmit o).program = s.program := rfl
@[simp] theorem State.logTransmit_k (s : State) (o : TransportOutcome) :
    (s.logTransmit o).k = s.k := rfl
@[simp] theorem State.logTransmit_draws (s : State) (o : TransportOutcome) :
    (s.logTransmit o).draws = s.draws := rfl
@[simp] theorem State.logTransmit_resets (s : State) (o : TransportOutcome) :
    (s.logTransmit o).resets = s.resets := rfl
@[simp] theorem State.logTransmit_fresh (s : State) (o : TransportOutcome) :
    (s.logTransmit o).fresh = s.fresh := rfl

/-! ### transmit -/

@[simp] theorem State.transmit_cfg (s : State) :
    (s.transmit).cfg = s.cfg := rfl
@[simp] theorem State.transmit_phase (s : State) :
    (s.transmit).phase = s.phase := rfl
@[simp] theorem State.transmit_status (s : State) :
    (s.transmit).status = s.status := rfl
@[simp] theorem State.transmit_cmdWord (s : State) :
    (s.transmit).cmdWord = s.cmdWord := rfl
@[simp] theorem State.transmit_txLog (s : State) :
    (s.transmit).txLog = s.txLog ++ [{ bytes := serialize s.cmdWord, outcome := s.nextOutcome }] := rfl
@[simp] theorem State.transmit_statusLog (s : State) :
    (s.transmit).statusLog = s.statusLog := rfl
@[simp] theorem State.transmit_program (s : State) :
    (s.transmit).program = s.program := rfl
@[simp] theorem State.transmit_k (s : State) :
    (s.transmit).k = s.k := rfl
@[simp] theorem State.transmit_draws (s : State) :
    (s.transmit).draws = s.draws.tail := rfl
@[simp] theorem State.transmit_resets (s : State) :
    (s.transmit).resets = s.resets := rfl
@[simp] theorem State.transmit_fresh (s : State) :
    (s.transmit).fresh = if s.draws.isEmpty then s.fresh + 1 else s.fresh := rfl

/-! ### finish -/

@[simp] theorem State.finish_cfg (s : State) (st : Status) :
    (s.finish st).cfg = s.cfg := rfl
@[simp] theorem State.finish_phase (s : State) (st : Status) :
    (s.finish st).phase = .idle := rfl
@[simp] theorem State.finish_status (s : State) (st : Status) :
    (s.finish st).status = st := rfl
@[simp] theorem State.finish_cmdWord (s : State) (st : Status) :
    (s.finish st).cmdWord = s.cmdWord := rfl
@[simp] theorem State.finish_txLog (s : State) (st : Status) :
    (s.finish st).txLog = s.txLog := rfl
@[simp] theorem State.finish_statusLog (s : State) (st : Status) :
    (s.finish st).statusLog = s.statusLog ++ [st] := rfl
@[simp] theorem State.finish_program (s : State) (st : Status) :
    (s.finish st).program = s.program := rfl
@[simp] theorem State.finish_k (s : State) (st : Status) :
    (s.finish st).k = s.k + 1 := rfl
@[simp] theorem State.finish_draws (s : State) (st : Status) :
    (s.finish st).draws = s.draws := rfl
@[simp] theorem State.finish_resets (s : State) (st : Status) :
    (s.finish st).resets = s.resets := rfl
@[simp] theorem State.finish_fresh (s : State) (st : Status) :
    (s.finish st).fresh = s.fresh := rfl

/-! ### release -/

@[simp] theorem State.release_cfg (s : State) :
    (s.release).cfg = s.cfg := rfl
@[simp] theorem State.release_phase (s : State) :
    (s.release).phase = s.phase := rfl
@[simp] theorem State.release_status (s : State) :
    (s.release).status = s.status := rfl
@[simp] theorem State.release_cmdWord (s : State) :
    (s.release).cmdWord = Config.unspecifiedWord s.fresh := rfl
@[simp] theorem State.release_txLog (s : State) :
    (s.release).txLog = s.txLog := rfl
@[simp] theorem State.release_statusLog (s : State) :
    (s.release).statusLog = s.statusLog := rfl
@[simp] theorem State.release_program (s : State) :
    (s.release).program = s.program := rfl
@[simp] theorem State.release_k (s : State) :
    (s.release).k = s.k := rfl
@[simp] theorem State.release_draws (s : State) :
    (s.release).draws = s.draws := rfl
@[simp] theorem State.release_resets (s : State) :
    (s.release).resets = s.resets := rfl
@[simp] theorem State.release_fresh (s : State) :
    (s.release).fresh = s.fresh + 1 := rfl

/-! ### popReset -/

@[simp] theorem State.popReset_cfg (s : State) :
    (s.popReset).cfg = s.cfg := rfl
@[simp] theorem State.popReset_phase (s : State) :
    (s.popReset).phase = s.phase := rfl
@[simp] theorem State.popReset_status (s : State) :
    (s.popReset).status = s.status := rfl
@[simp] theorem State.popReset_cmdWord (s : State) :
    (s.popReset).cmdWord = s.cmdWord := rfl
@[simp] theorem State.popReset_txLog (s : State) :
    (s.popReset).txLog = s.txLog := rfl
@[simp] theorem State.popReset_statusLog (s : State) :
    (s.popReset).statusLog = s.statusLog := rfl
@[simp] theorem State.popReset_program (s : State) :
    (s.popReset).program = s.program := rfl
@[simp] theorem State.popReset_k (s : State) :
    (s.popReset).k = s.k := rfl
@[simp] theorem State.popReset_draws (s : State) :
    (s.popReset).draws = s.draws := rfl
@[simp] theorem State.popReset_resets (s : State) :
    (s.popReset).resets = s.resets.tail := rfl
@[simp] theorem State.popReset_fresh (s : State) :
    (s.popReset).fresh = s.fresh := rfl

/-! ### withRequest -/

@[simp] theorem State.withRequest_cfg (s : State) (r : Request) :
    (s.withRequest r).cfg = s.cfg := rfl
@[simp] theorem State.withRequest_phase (s : State) (r : Request) :
    (s.withRequest r).phase = .idle := rfl
@[simp] theorem State.withRequest_status (s : State) (r : Request) :
    (s.withRequest r).status = s.status := rfl
@[simp] theorem State.withRequest_cmdWord (s : State) (r : Request) :
    (s.withRequest r).cmdWord = s.cmdWord := rfl
@[simp] theorem State.withRequest_txLog (s : State) (r : Request) :
    (s.withRequest r).txLog = s.txLog := rfl
@[simp] theorem State.withRequest_statusLog (s : State) (r : Request) :
    (s.withRequest r).statusLog = s.statusLog := rfl
@[simp] theorem State.withRequest_program (s : State) (r : Request) :
    (s.withRequest r).program = placeAt s.program s.k r := rfl
@[simp] theorem State.withRequest_k (s : State) (r : Request) :
    (s.withRequest r).k = s.k := rfl
@[simp] theorem State.withRequest_draws (s : State) (r : Request) :
    (s.withRequest r).draws = s.draws := rfl
@[simp] theorem State.withRequest_resets (s : State) (r : Request) :
    (s.withRequest r).resets = [] := rfl
@[simp] theorem State.withRequest_fresh (s : State) (r : Request) :
    (s.withRequest r).fresh = s.fresh := rfl

/-! ### withoutRequest -/

@[simp] theorem State.withoutRequest_cfg (s : State) :
    (s.withoutRequest).cfg = s.cfg := rfl
@[simp] theorem State.withoutRequest_phase (s : State) :
    (s.withoutRequest).phase = .idle := rfl
@[simp] theorem State.withoutRequest_status (s : State) :
    (s.withoutRequest).status = s.status := rfl
@[simp] theorem State.withoutRequest_cmdWord (s : State) :
    (s.withoutRequest).cmdWord = s.cmdWord := rfl
@[simp] theorem State.withoutRequest_txLog (s : State) :
    (s.withoutRequest).txLog = s.txLog := rfl
@[simp] theorem State.withoutRequest_statusLog (s : State) :
    (s.withoutRequest).statusLog = s.statusLog := rfl
@[simp] theorem State.withoutRequest_program (s : State) :
    (s.withoutRequest).program = s.program.take s.k := rfl
@[simp] theorem State.withoutRequest_k (s : State) :
    (s.withoutRequest).k = s.k := rfl
@[simp] theorem State.withoutRequest_draws (s : State) :
    (s.withoutRequest).draws = s.draws := rfl
@[simp] theorem State.withoutRequest_resets (s : State) :
    (s.withoutRequest).resets = [] := rfl
@[simp] theorem State.withoutRequest_fresh (s : State) :
    (s.withoutRequest).fresh = s.fresh := rfl

/-! ### nextOutcome -/

@[simp] theorem State.accept_nextOutcome (s : State) : s.accept.nextOutcome = s.nextOutcome := rfl
@[simp] theorem State.latch_nextOutcome (s : State) (w : Word) : (s.latch w).nextOutcome = s.nextOutcome := rfl
@[simp] theorem State.popReset_nextOutcome (s : State) : s.popReset.nextOutcome = s.nextOutcome := rfl

/-! ### nextRequest -/

@[simp] theorem State.popReset_nextRequest (s : State) : s.popReset.nextRequest = s.nextRequest := rfl

/-! ### constructed -/

@[simp] theorem State.constructed_cfg (m : DeviceModel) : (State.constructed m).cfg = m := rfl
@[simp] theorem State.constructed_phase (m : DeviceModel) : (State.constructed m).phase = .idle := rfl
@[simp] theorem State.constructed_status (m : DeviceModel) : (State.constructed m).status = .none := rfl
@[simp] theorem State.constructed_cmdWord (m : DeviceModel) : (State.constructed m).cmdWord = 0 := rfl
@[simp] theorem State.constructed_txLog (m : DeviceModel) : (State.constructed m).txLog = [] := rfl
@[simp] theorem State.constructed_statusLog (m : DeviceModel) : (State.constructed m).statusLog = [] := rfl
@[simp] theorem State.constructed_program (m : DeviceModel) : (State.constructed m).program = [] := rfl
@[simp] theorem State.constructed_k (m : DeviceModel) : (State.constructed m).k = 0 := rfl
@[simp] theorem State.constructed_draws (m : DeviceModel) : (State.constructed m).draws = [] := rfl
@[simp] theorem State.constructed_resets (m : DeviceModel) : (State.constructed m).resets = [] := rfl
@[simp] theorem State.constructed_fresh (m : DeviceModel) : (State.constructed m).fresh = 0 := rfl

end Sys2Proof.Machine
end

