-- ==== Sys2Proof/Laws/Ops.lean ====
section
/-! SUPPORT. For each shared operation, one lemma that says everything it can do. -/

namespace Sys2Proof.Machine

/-! ### Words and bytes -/

/-- Reading back the bytes of a word gives the word. -/
@[simp] theorem deserialize_serialize (w : Word) : deserialize (serialize w) = w := by
  simp only [deserialize, serialize]
  ext i hi
  simp only [BitVec.getElem_append, BitVec.getElem_extractLsb']
  split
  · simp [BitVec.getLsbD_eq_getElem hi]
  · split
    · rw [← BitVec.getLsbD_eq_getElem hi]; congr 1; omega
    · split
      · rw [← BitVec.getLsbD_eq_getElem hi]; congr 1; omega
      · rw [← BitVec.getLsbD_eq_getElem hi]; congr 1; omega

/-! ### The frame -/

/-- A rejected request, field by field at once. -/
theorem rejectRequest_eq (e : Status) (s : State) :
    rejectRequest e s =
      { s with phase := .idle, status := e, statusLog := s.statusLog ++ [e], k := s.k + 1 } := rfl

@[simp] theorem transmitRequest_cfg (w : Word) (s : State) : (transmitRequest w s).cfg = s.cfg := rfl
@[simp] theorem transmitRequest_phase (w : Word) (s : State) : (transmitRequest w s).phase = .idle := rfl
@[simp] theorem transmitRequest_status (w : Word) (s : State) :
    (transmitRequest w s).status = statusOfOutcome s.nextOutcome := rfl
@[simp] theorem transmitRequest_txLog (w : Word) (s : State) :
    (transmitRequest w s).txLog = s.txLog ++ [{ bytes := serialize w, outcome := s.nextOutcome }] := rfl
@[simp] theorem transmitRequest_statusLog (w : Word) (s : State) :
    (transmitRequest w s).statusLog = s.statusLog ++ [statusOfOutcome s.nextOutcome] := rfl
@[simp] theorem transmitRequest_program (w : Word) (s : State) : (transmitRequest w s).program = s.program := rfl
@[simp] theorem transmitRequest_k (w : Word) (s : State) : (transmitRequest w s).k = s.k + 1 := rfl
@[simp] theorem transmitRequest_draws (w : Word) (s : State) :
    (transmitRequest w s).draws = s.draws.tail := rfl
@[simp] theorem transmitRequest_resets (w : Word) (s : State) : (transmitRequest w s).resets = s.resets := rfl

/-- While IDLE, checks that fail end the request. -/
theorem runRequest_error {s : State} (h : s.phase = .idle) (e : Status) :
    runRequest (.error e) s = .next (rejectRequest e s) := by
  simp [runRequest, h]

/-- While IDLE, checks that pass send the word. -/
theorem runRequest_ok {s : State} (h : s.phase = .idle) (w : Word) :
    runRequest (.ok w) s = .next (transmitRequest w s) := by
  simp [runRequest, h]

/-- While BUSY there is no step. -/
theorem runRequest_busy {s : State} (h : s.phase = .busy) (checked : Except Status Word) :
    runRequest checked s = .refused .overlappingRequest := by
  simp [runRequest, h]

/-- Everything the frame can do when it answers a next state. -/
theorem runRequest_next {checked : Except Status Word} {s t : State} (h : runRequest checked s = .next t) :
    s.phase = .idle ∧
      ((∃ e, checked = .error e ∧ t = rejectRequest e s) ∨ (∃ w, checked = .ok w ∧ t = transmitRequest w s)) := by
  unfold runRequest at h
  split at h
  · cases h
  · injection h with h; exact ⟨‹_›, .inl ⟨_, rfl, h.symm⟩⟩
  · injection h with h; exact ⟨‹_›, .inr ⟨_, rfl, h.symm⟩⟩

/-! ### Instructions -/

/-- Every instruction is the frame run on its own checks and word. -/
theorem exec_eq_runRequest (i : Instr) (s : State) : exec i s = runRequest (buildWord s.cfg i) s := by
  cases i <;> rfl

/-- A presented request is the frame run on its checks and word, the op select's check among them. -/
theorem presentRequest_some {s : State} {r : Request} (h : s.nextRequest = some r) :
    presentRequest s = runRequest (buildRequest s.cfg r) s := by
  simp only [presentRequest, h, buildRequest]
  cases decodeRequest r with
  | none => rfl
  | some i => exact exec_eq_runRequest i s

/-- With no request the block waits. -/
theorem presentRequest_none {s : State} (h : s.nextRequest = none) : presentRequest s = .next s := by
  simp [presentRequest, h]

/-! ### The block reset -/

@[simp] theorem blockReset_cfg (b : Bool) (s : State) : (blockReset b s).cfg = s.cfg := rfl
@[simp] theorem blockReset_phase (b : Bool) (s : State) : (blockReset b s).phase = .idle := rfl
@[simp] theorem blockReset_status (b : Bool) (s : State) : (blockReset b s).status = .none := rfl
@[simp] theorem blockReset_txLog (b : Bool) (s : State) : (blockReset b s).txLog = s.txLog := rfl
@[simp] theorem blockReset_statusLog (b : Bool) (s : State) : (blockReset b s).statusLog = s.statusLog := rfl
@[simp] theorem blockReset_program (b : Bool) (s : State) : (blockReset b s).program = s.program := rfl
@[simp] theorem blockReset_k (b : Bool) (s : State) : (blockReset b s).k = if b then 0 else s.k := rfl
@[simp] theorem blockReset_draws (b : Bool) (s : State) : (blockReset b s).draws = s.draws := rfl
@[simp] theorem blockReset_resets (b : Bool) (s : State) : (blockReset b s).resets = s.resets := rfl

/-- A block reset in a step is the block reset of the state as it stood, or of that state with the interrupted
transmit in its log. -/
theorem takeBlockReset_cases (point : ResetPoint) (restart : Bool) (s : State) :
    takeBlockReset point restart s = blockReset restart s ∨
      ∃ w, point = .duringTransmit ∧ inFlightWord s = some w ∧
        takeBlockReset point restart s = blockReset restart ((s.latch w).logTransmit .fail) := by
  cases point with
  | whileIdle => exact .inl rfl
  | beforeTransmit => exact .inl rfl
  | duringTransmit =>
    cases h : inFlightWord s with
    | none => left; simp [takeBlockReset, interruptTransmit, h]
    | some w => right; exact ⟨w, rfl, rfl, by simp [takeBlockReset, interruptTransmit, h]⟩

end Sys2Proof.Machine
end

