-- ==== Sys2Proof/Laws/PerInstr.lean ====
section
/-! SUPPORT. Facts about every instruction as syntax, one lemma per constructor. -/

namespace Sys2Proof.Laws

/-- The request that presents an operation selects exactly it, with every operand it reads (R83, R84). -/
def RequestForm.Statement (i : Instr) : Prop :=
  decodeRequest (requestOf i) = some i

theorem RequestForm.writeInputRegister (chan : Sel) (value : BitVec 16) :
    RequestForm.Statement (.writeInputRegister chan value) := rfl

theorem RequestForm.updateDacRegister (chan : Sel) : RequestForm.Statement (.updateDacRegister chan) := rfl

theorem RequestForm.writeInputRegisterUpdateAll (chan : Sel) (value : BitVec 16) :
    RequestForm.Statement (.writeInputRegisterUpdateAll chan value) := rfl

theorem RequestForm.writeAndUpdateChannel (chan : Sel) (value : BitVec 16) :
    RequestForm.Statement (.writeAndUpdateChannel chan value) := rfl

theorem RequestForm.setPowerMode (mode chan : Sel) : RequestForm.Statement (.setPowerMode mode chan) := rfl

theorem RequestForm.setClearCodeMode (mode : Sel) : RequestForm.Statement (.setClearCodeMode mode) := rfl

theorem RequestForm.setLdacMode (mode chan : Sel) : RequestForm.Statement (.setLdacMode mode chan) := rfl

theorem RequestForm.reset : RequestForm.Statement .reset := rfl

theorem RequestForm.setInternalReferenceMode (mode : Sel) :
    RequestForm.Statement (.setInternalReferenceMode mode) := rfl

end Sys2Proof.Laws
end

