-- ==== Sys2Proof/Laws/Step.lean ====
section
/-! SUPPORT. Everything one step can do. -/

namespace Sys2Proof.Machine

/-- The ways a step can answer a next state, where `u` is `s` with this step's reset draw taken off: a block reset,
a wait, a rejected request, or a request that transmits. -/
theorem step_next {s t : State} (h : step s = .next t) :
    ∃ u : State, (u = s ∨ u = s.popReset) ∧
      ((∃ point restart rest, s.resets = .arrives point restart :: rest ∧ u = s.popReset ∧
          t = takeBlockReset point restart u) ∨
       (u.nextRequest = none ∧ t = u) ∨
       (∃ r e, u.phase = .idle ∧ u.nextRequest = some r ∧ buildRequest u.cfg r = .error e ∧
          t = rejectRequest e u) ∨
       (∃ r w, u.phase = .idle ∧ u.nextRequest = some r ∧ buildRequest u.cfg r = .ok w ∧
          t = transmitRequest w u)) := by
  have present : ∀ u : State, presentRequest u = .next t →
      ((u.nextRequest = none ∧ t = u) ∨
       (∃ r e, u.phase = .idle ∧ u.nextRequest = some r ∧ buildRequest u.cfg r = .error e ∧
          t = rejectRequest e u) ∨
       (∃ r w, u.phase = .idle ∧ u.nextRequest = some r ∧ buildRequest u.cfg r = .ok w ∧
          t = transmitRequest w u)) := by
    intro u hu
    cases hr : u.nextRequest with
    | none =>
      rw [presentRequest_none hr] at hu
      injection hu with hu
      exact .inl ⟨rfl, hu.symm⟩
    | some r =>
      rw [presentRequest_some hr] at hu
      obtain ⟨hidle, ⟨e, he, ht⟩ | ⟨w, hw, ht⟩⟩ := runRequest_next hu
      · exact .inr (.inl ⟨r, e, hidle, rfl, he, ht⟩)
      · exact .inr (.inr ⟨r, w, hidle, rfl, hw, ht⟩)
  unfold step at h
  split at h
  · injection h with h
    exact ⟨s.popReset, .inr rfl, .inl ⟨_, _, _, ‹_›, rfl, h.symm⟩⟩
  · exact ⟨s.popReset, .inr rfl, .inr (present _ h)⟩
  · exact ⟨s, .inl rfl, .inr (present _ h)⟩

end Sys2Proof.Machine
end

