-- ==== Sys2Proof/Tests/Slice0.lean ====
section
/-! SUPPORT. The model's own tests. Expected words, statuses and bits are those of spec/95_test_vectors.md (the ids in
the comments) or of the patterns of spec/opcode_table.json, never the model's own answers. Then, for each statement
that has hypotheses, a witness that meets them. -/

namespace Sys2Proof.Tests

open Sys2Proof.Machine Sys2Proof.Safety

/-- A block of data width `dw`, just constructed, with the transport's coming answers. -/
def block (dw : DataWidth) (draws : List TransportOutcome) : State :=
  { State.constructed ⟨dw, .v2p5, .zeroScale⟩ with draws := draws }

/-- A block that has a program and a reset line to meet. -/
def running (dw : DataWidth) (program : List Request) (resets : List ResetDraw) : State :=
  { block dw [.ok] with program := program, resets := resets }

/-- What a step that answered a next state shows: the words it leaves in the transmit log with their outcomes, and
STATUS. -/
def shows : Host.Outcome State Fault Refusal → Option (List (Word × TransportOutcome) × Status)
  | .next t => some (t.txLog.map (fun e => (deserialize e.bytes, e.outcome)), t.status)
  | _ => none

/-! ### Well-formedness: an ill-formed term for each check -/

/-- X3: channel 8 is reserved. -/
theorem test_wf_refuses_channel_8 : wellFormed .w12 (.updateDacRegister (.code 8)) = false := by decide

theorem test_wf_refuses_names : wellFormed .w12 (.updateDacRegister (.name "DAC_A")) = false := by decide

/-- V17, and the same value on a 14-bit block. -/
theorem test_wf_value :
    wellFormed .w12 (.writeInputRegister (.code 0) 0x1000) = false ∧
    wellFormed .w14 (.writeInputRegister (.code 0) 0x1000) = true := by decide

/-- V123 and V172. -/
theorem test_wf_modes :
    wellFormed .w12 (.setPowerMode (.code 4) (.code 0)) = false ∧
    wellFormed .w12 (.setInternalReferenceMode (.code 2)) = false ∧
    wellFormed .w12 (.setClearCodeMode (.name "ZERO")) = false := by decide

/-- R92: mode HW carries no channel. -/
theorem test_wf_ldac_hw_channel :
    wellFormed .w12 (.setLdacMode (.code 0) (.code 3)) = false ∧
    wellFormed .w12 (.setLdacMode (.code 0) (.code 0)) = true := by decide

/-! ### Decoding: one word of each row, bit by bit from the table's pattern -/

/-- Row writeInputRegister, 12 bits: channel C, value 0x800. -/
theorem test_decode_writeInputRegister :
    decodeWord .w12 0b0000_0000_0010_100000000000_00000000#32 = .ok (.writeInputRegister (.code 2) 0x800) := by
  decide

/-- Row updateDacRegister: all channels. -/
theorem test_decode_updateDacRegister :
    decodeWord .w12 0b0000_0001_1111_00000000000000000000#32 = .ok (.updateDacRegister (.code 15)) := by decide

/-- Row writeInputRegisterUpdateAll, 16 bits (V77). -/
theorem test_decode_writeInputRegisterUpdateAll :
    decodeWord .w16 0b0000_0010_0111_1000000000000000_0000#32 =
      .ok (.writeInputRegisterUpdateAll (.code 7) 0x8000) := by decide

/-- Row writeAndUpdateChannel, 14 bits (V81). -/
theorem test_decode_writeAndUpdateChannel :
    decodeWord .w14 0b0000_0011_0001_10101010101010_000000#32 = .ok (.writeAndUpdateChannel (.code 1) 0x2AAA) := by
  decide

/-- Row setPowerMode: mode 2 and channel D, then ALL_DAC in bit 15 (X10). -/
theorem test_decode_setPowerMode :
    decodeWord .w12 0b0000_0100_00000000_0_00000_10_00001000#32 = .ok (.setPowerMode (.code 2) (.code 3)) ∧
    decodeWord .w12 0b0000_0100_00000000_1_00000_00_00000000#32 = .ok (.setPowerMode (.code 0) (.code 15)) := by
  decide

/-- Row setClearCodeMode. -/
theorem test_decode_setClearCodeMode :
    decodeWord .w12 0b0000_0101_0000000000000000000000_11#32 = .ok (.setClearCodeMode (.code 3)) := by decide

/-- Row setLdacMode: SW for channel F, and HW (X14). -/
theorem test_decode_setLdacMode :
    decodeWord .w12 0b0000_0110_00000000_0_0000000_00100000#32 = .ok (.setLdacMode (.code 1) (.code 5)) ∧
    decodeWord .w12 0b0000_0110_00000000_0_0000000_00000000#32 = .ok (.setLdacMode (.code 0) (.code 0)) := by decide

/-- Row reset. -/
theorem test_decode_reset : decodeWord .w16 0b0000_0111_000000000000000000000000#32 = .ok .reset := by decide

/-- Row setInternalReferenceMode. -/
theorem test_decode_setInternalReferenceMode :
    decodeWord .w12 0b0000_1000_00000000000000000000000_1#32 = .ok (.setInternalReferenceMode (.code 1)) := by decide

/-- X1, X2, X3, X5, X7, X8, X9, X11, X12, X13, X15, X16, X17, X18: refused, each by name. -/
theorem test_decode_refuses_reserved :
    [0x09000000#32, 0x10000000#32, 0x00800000#32, 0x000FFF10#32, 0x01000001#32, 0x04000003#32, 0x04000000#32,
      0x04010001#32, 0x04100001#32, 0x05000004#32, 0x06000003#32, 0x06000100#32, 0x07000001#32,
      0x08000002#32].map (decodeWord .w12) =
    [.error .reservedOpcode, .error .paddingNotZero, .error .reservedAddress, .error .unusedBitSet,
      .error .unusedBitSet, .error .severalChannelBits, .error .noChannelBit, .error .unusedBitSet,
      .error .unusedBitSet, .error .unusedBitSet, .error .severalChannelBits, .error .unusedBitSet,
      .error .unusedBitSet, .error .unusedBitSet] := by decide

/-- X4, X5, X6, X8, X10, X14 of `LegalWord`. -/
theorem test_legalWord :
    legalWord .w12 0x000FFF00 = true ∧ legalWord .w12 0x000FFF10 = false ∧ legalWord .w16 0x000FFF10 = true ∧
    legalWord .w12 0x04000003 = false ∧ legalWord .w12 0x04008000 = true ∧ legalWord .w12 0x06000000 = true := by
  decide

/-- Two words in a row, and the bytes after them. -/
theorem test_decode_stream :
    decodeBytes .w12 [0x07, 0x00, 0x00, 0x00, 0x08] = .ok (.reset, [0x08]) ∧
    decodeBytes .w12 [0x07, 0x00, 0x00] = .error .truncated := by decide

/-- V7, V81, V120, V159 against the encoder. -/
theorem test_encode :
    encode .w12 (.writeInputRegister (.code 3) 0xFFF) = some 0x003FFF00 ∧
    encode .w14 (.writeAndUpdateChannel (.code 1) 0x2AAA) = some 0x031AAA80 ∧
    encode .w12 (.setPowerMode (.code 3) (.code 15)) = some 0x04008300 ∧
    encode .w12 (.setLdacMode (.code 1) (.code 15)) = some 0x06008000 ∧
    encode .w12 (.setLdacMode (.code 1) (.name "DAC_A")) = none := by decide

/-! ### Bytes and bits -/

/-- S1 to S4. -/
theorem test_serialize :
    serialize 0x07000000 = ⟨0x07, 0x00, 0x00, 0x00⟩ ∧ serialize 0x00FFFFF0 = ⟨0x00, 0xFF, 0xFF, 0xF0⟩ ∧
    serialize 0x04008300 = ⟨0x04, 0x00, 0x83, 0x00⟩ ∧ serialize 0x01234567 = ⟨0x01, 0x23, 0x45, 0x67⟩ := by decide

/-- R57: after `fail`, nothing or an eight-bit prefix may have been delivered, and not a stream that differs. -/
theorem test_failed_delivery :
    mayDeliver ⟨serialize 0x07000000, .fail⟩ [] = true ∧
    mayDeliver ⟨serialize 0x07000000, .fail⟩ [false, false, false, false, false, true, true, true] = true ∧
    mayDeliver ⟨serialize 0x07000000, .fail⟩ [true] = false := by decide

/-! ### The nine operations -/

/-- V7 and V41. -/
theorem test_writeInputRegister :
    shows (exec (.writeInputRegister (.name "DAC_D") 0xFFF) (block .w12 [.ok])) = some ([(0x003FFF00, .ok)], .ok) ∧
    shows (exec (.writeInputRegister (.code 0) 0xFFFF) (block .w16 [.ok])) = some ([(0x000FFFF0, .ok)], .ok) := by
  decide

/-- V17 and R155's example: the channel is reported although the value is out of range too. -/
theorem test_writeInputRegister_errors :
    shows (exec (.writeInputRegister (.code 0) 0x1000) (block .w12 [.ok])) = some ([], .invalidValue) ∧
    shows (exec (.writeInputRegister (.code 99) 0xFFFF) (block .w12 [.ok])) = some ([], .invalidChannel) := by decide

/-- V62 and V66. -/
theorem test_updateDacRegister :
    shows (exec (.updateDacRegister (.name "DAC_H")) (block .w12 [.ok])) = some ([(0x01700000, .ok)], .ok) ∧
    shows (exec (.updateDacRegister (.code 15)) (block .w12 [.ok])) = some ([(0x01F00000, .ok)], .ok) := by decide

/-- V68 and V73. -/
theorem test_updateDacRegister_errors :
    shows (exec (.updateDacRegister (.code 14)) (block .w12 [.ok])) = some ([], .invalidChannel) ∧
    shows (exec (.updateDacRegister (.name "dac_a")) (block .w12 [.ok])) = some ([], .invalidChannel) := by decide

/-- V76. -/
theorem test_writeInputRegisterUpdateAll :
    shows (exec (.writeInputRegisterUpdateAll (.name "ALL_DAC") 0x3FFF) (block .w14 [.ok])) =
      some ([(0x02FFFFC0, .ok)], .ok) := by decide

/-- V78 and V79. -/
theorem test_writeInputRegisterUpdateAll_errors :
    shows (exec (.writeInputRegisterUpdateAll (.code 9) 0x8000) (block .w16 [.ok])) = some ([], .invalidChannel) ∧
    shows (exec (.writeInputRegisterUpdateAll (.name "DAC_A") 0x1000) (block .w12 [.ok])) =
      some ([], .invalidValue) := by decide

/-- V83, and P3's transport failure. -/
theorem test_writeAndUpdateChannel :
    shows (exec (.writeAndUpdateChannel (.name "DAC_E") 0xFFFF) (block .w16 [.ok])) =
      some ([(0x034FFFF0, .ok)], .ok) ∧
    shows (exec (.writeAndUpdateChannel (.name "DAC_B") 0xFFF) (block .w12 [.fail])) =
      some ([(0x031FFF00, .fail)], .transportFailure) := by decide

/-- V84. -/
theorem test_writeAndUpdateChannel_error :
    shows (exec (.writeAndUpdateChannel (.code 3) 0x4000) (block .w14 [.ok])) = some ([], .invalidValue) := by decide

/-- V106 and V120. -/
theorem test_setPowerMode :
    shows (exec (.setPowerMode (.name "PULL-100K-TO-GND") (.code 3)) (block .w12 [.ok])) =
      some ([(0x04000208, .ok)], .ok) ∧
    shows (exec (.setPowerMode (.name "TRISTATE") (.name "ALL_DAC")) (block .w12 [.ok])) =
      some ([(0x04008300, .ok)], .ok) := by decide

/-- V124, V125 and V127. -/
theorem test_setPowerMode_errors :
    shows (exec (.setPowerMode (.name "FOO") (.code 0x63)) (block .w12 [.ok])) = some ([], .invalidMode) ∧
    shows (exec (.setPowerMode (.name "TRISTATE") (.code 8)) (block .w12 [.ok])) = some ([], .invalidChannel) ∧
    shows (exec (.setPowerMode (.name "NOP") (.code 0)) (block .w12 [.ok])) = some ([], .invalidMode) := by decide

/-- V131 and V133. -/
theorem test_setClearCodeMode :
    shows (exec (.setClearCodeMode (.name "FULLSCALE")) (block .w12 [.ok])) = some ([(0x05000002, .ok)], .ok) ∧
    shows (exec (.setClearCodeMode (.name "NOP")) (block .w12 [.ok])) = some ([(0x05000003, .ok)], .ok) := by decide

/-- V138 and V139. -/
theorem test_setClearCodeMode_errors :
    shows (exec (.setClearCodeMode (.code 4)) (block .w12 [.ok])) = some ([], .invalidMode) ∧
    shows (exec (.setClearCodeMode (.name "TRISTATE")) (block .w12 [.ok])) = some ([], .invalidMode) := by decide

/-- V156, V159 and V149. -/
theorem test_setLdacMode :
    shows (exec (.setLdacMode (.name "SW") (.code 5)) (block .w12 [.ok])) = some ([(0x06000020, .ok)], .ok) ∧
    shows (exec (.setLdacMode (.name "SW") (.name "ALL_DAC")) (block .w12 [.ok])) =
      some ([(0x06008000, .ok)], .ok) ∧
    shows (exec (.setLdacMode (.name "HW") (.code 7)) (block .w12 [.ok])) = some ([(0x06000000, .ok)], .ok) := by
  decide

/-- V162, V163 and V165. -/
theorem test_setLdacMode_errors :
    shows (exec (.setLdacMode (.code 2) (.code 0)) (block .w12 [.ok])) = some ([], .invalidMode) ∧
    shows (exec (.setLdacMode (.name "HW") (.code 0x63)) (block .w12 [.ok])) = some ([], .invalidChannel) ∧
    shows (exec (.setLdacMode (.name "FOO") (.code 0x63)) (block .w12 [.ok])) = some ([], .invalidMode) := by decide

/-- V166 and T1. -/
theorem test_reset :
    shows (exec .reset (block .w16 [.ok])) = some ([(0x07000000, .ok)], .ok) ∧
    shows (exec .reset (block .w12 [.fail])) = some ([(0x07000000, .fail)], .transportFailure) := by decide

/-- V168 and V169. -/
theorem test_setInternalReferenceMode :
    shows (exec (.setInternalReferenceMode (.name "ON")) (block .w12 [.ok])) = some ([(0x08000001, .ok)], .ok) ∧
    shows (exec (.setInternalReferenceMode (.name "OFF")) (block .w12 [.ok])) = some ([(0x08000000, .ok)], .ok) := by
  decide

/-- V172 and V173. -/
theorem test_setInternalReferenceMode_errors :
    shows (exec (.setInternalReferenceMode (.code 2)) (block .w12 [.ok])) = some ([], .invalidMode) ∧
    shows (exec (.setInternalReferenceMode (.name "on")) (block .w12 [.ok])) = some ([], .invalidMode) := by decide

/-! ### Steps, resets, construction -/

/-- V141: an ignored channel raises nothing; V175: an unused op select is reported before its operands. -/
theorem test_step_request :
    shows (step (running .w12 [⟨5, .code 0x63, .name "ZERO", 0⟩] [])) = some ([(0x05000000, .ok)], .ok) ∧
    shows (step (running .w12 [⟨9, .code 0x63, .name "FOO", 0⟩] [])) = some ([], .invalidOperation) := by decide

/-- T4: a block reset between a `Transmit` and its outcome; and the same before the `Transmit`. -/
theorem test_block_reset_in_request :
    shows (step (running .w12 [⟨0, .code 0, .code 0, 0⟩] [.arrives .duringTransmit false])) =
      some ([(0x00000000, .fail)], .none) ∧
    shows (step (running .w12 [⟨0, .code 0, .code 0, 0⟩] [.arrives .beforeTransmit false])) = some ([], .none) := by
  decide

/-- A table that meets R22's constraints. Every identifier but "AD5628-1" is made up for this test. -/
def sampleTable : DeviceTable :=
  [("AD5628-1", ⟨.w12, .v2p5, .zeroScale⟩), ("sample-2", ⟨.w12, .v5p0, .zeroScale⟩),
   ("sample-3", ⟨.w14, .v2p5, .zeroScale⟩), ("sample-4", ⟨.w14, .v5p0, .halfScale⟩),
   ("sample-5", ⟨.w16, .v2p5, .zeroScale⟩), ("sample-6", ⟨.w16, .v5p0, .halfScale⟩)]

/-- K1 to K3. -/
theorem test_construct :
    (∃ s, construct sampleTable "AD5628-1" = .next s ∧ s.cfgOut = 0b0000 ∧ s.status = .none) ∧
    construct sampleTable "AD5628-9" = .fault .unknownDeviceModel ∧
    construct sampleTable "ad5628-1" = .fault .unknownDeviceModel :=
  ⟨⟨_, rfl, by decide, by decide⟩, rfl, rfl⟩

/-- K5. -/
theorem test_cfg_bits : cfgBits ⟨.w16, .v5p0, .halfScale⟩ = 0b1110 := by decide

/-- R86's examples of quoted and hexadecimal operands, and the writer read back. -/
theorem test_call_text :
    CallText.parseCall "setInternalReferenceMode(\"ON\")" = some (.setInternalReferenceMode (.name "ON")) ∧
    CallText.parseCall "writeInputRegister(DAC_A, 0x800)" = some (.writeInputRegister (.name "DAC_A") 2048) ∧
    CallText.parseCall "updateDacRegister(256)" = none ∧
    CallText.parseCall (CallText.callText (.setPowerMode (.name "PULL-1K-TO-GND") (.code 3))) =
      some (.setPowerMode (.name "PULL-1K-TO-GND") (.code 3)) := by decide

/-- The table's own word of a row, placed at reset, is what the first step runs. -/
theorem test_fetch_word :
    decodeTableWord 32 0x07000000 = some .reset ∧
    (State.reset.withFetchWord 32 0x07000000).nextRequest = some (requestOf .reset) ∧
    ∃ t, step (State.reset.withFetchWord 32 0x07000000) = .next t ∧ t.k = 1 :=
  ⟨by decide, by decide, _, rfl, rfl⟩

/-! ### Witnesses: the hypotheses of the statements can be met -/

/-- DecodeOfEncodeIsTheInstruction and BuiltWordIsTheTablePattern, at the ends of the ranges. -/
theorem witness_wellFormed :
    wellFormed .w12 (.writeInputRegister (.code 15) 0xFFF) = true ∧
    wellFormed .w16 (.writeAndUpdateChannel (.code 7) 0xFFFF) = true ∧
    wellFormed .w14 (.setPowerMode (.code 3) (.code 15)) = true ∧
    wellFormed .w12 (.setLdacMode (.code 0) (.code 0)) = true ∧
    wellFormed .w12 (.setLdacMode (.code 1) (.code 15)) = true := by decide

/-- EncodeOfDecodeIsTheWord. -/
theorem witness_decodes : decodeWord .w16 0x034FFFF0 = .ok (.writeAndUpdateChannel (.code 4) 0xFFFF) := by decide

/-- CommandOpcodeIsFixed, UnusedBitsOfEveryWordAreZero and both clauses of OneChannelBitPerWord, the second in both
modes. -/
theorem witness_built :
    buildWord Config.givenModel (.setPowerMode (.name "TRISTATE") (.name "ALL_DAC")) = .ok 0x04008300 ∧
    buildWord Config.givenModel (.setLdacMode (.name "SW") (.code 15)) = .ok 0x06008000 ∧
    buildWord Config.givenModel (.setLdacMode (.name "HW") (.code 15)) = .ok 0x06000000 := by decide

/-- ChannelResolution's three premises. -/
theorem witness_channels :
    ("ALL_DAC", 15) ∈ channelTable ∧ "DAC_Z" ∉ channelTable.map Prod.fst ∧ resolveChannel (.code 15) = .ok 15 := by
  decide

/-- ModeResolution's and NameAndCodeBuildTheSameWord's premises. -/
theorem witness_modes :
    ("TRISTATE", 3) ∈ powerTable ∧ ("NOP", 3) ∈ clearTable ∧ ("SW", 1) ∈ ldacTable ∧ ("ON", 1) ∈ refTable ∧
    "FOO" ∉ powerTable.map Prod.fst ∧ resolveMode ldacTable (.code 1) = .ok 1 ∧
    resolveMode refTable (.name "OFF") = .ok 0 := by decide

/-- ShiftOfEachDataWidth's premises. -/
theorem witness_widths :
    (block .w12 []).cfg.dataWidth = .w12 ∧ (block .w14 []).cfg.dataWidth = .w14 ∧
    (block .w16 []).cfg.dataWidth = .w16 := by decide

/-- CheckedValueNeverLeavesData, where its two clauses meet, and its first at the widest value. -/
theorem witness_values :
    (0xFFF#16).toNat < 2 ^ DataWidth.w12.bits ∧ 2 ^ DataWidth.w12.bits ≤ (0x1000#16).toNat ∧
    (0xFFFF#16).toNat < 2 ^ DataWidth.w16.bits := by decide

/-- IgnoredFieldsHaveNoEffect, with requests that differ in every ignored field. -/
theorem witness_ignored : AgreeOnRead ⟨5, .code 99, .name "ZERO", 1⟩ ⟨5, .name "DAC_A", .name "ZERO", 2⟩ := by
  unfold AgreeOnRead
  decide

/-- The three clauses of the three value-carrying operations: the greatest value that fits, the least that does not,
and a channel between the valid ones. -/
theorem witness_writes :
    (block .w14 []).phase = .idle ∧ resolveChannel (.name "ALL_DAC") = .ok 15 ∧
    (0x3FFF#16).toNat < 2 ^ (block .w14 []).cfg.dataWidth.bits ∧
    2 ^ (block .w14 []).cfg.dataWidth.bits ≤ (0x4000#16).toNat ∧
    (∀ c, resolveChannel (.code 8) ≠ .ok c) ∧ (∀ c, resolveChannel (.code 14) ≠ .ok c) := by decide

/-- The clauses of the operations with a mode. -/
theorem witness_mode_operations :
    (block .w12 []).phase = .idle ∧ resolveMode powerTable (.code 3) = .ok 3 ∧
    (∀ m, resolveMode powerTable (.code 4) ≠ .ok m) ∧ resolveMode clearTable (.code 3) = .ok 3 ∧
    (∀ m, resolveMode clearTable (.code 4) ≠ .ok m) ∧ resolveMode ldacTable (.code 1) = .ok 1 ∧
    (∀ m, resolveMode ldacTable (.code 2) ≠ .ok m) ∧ resolveMode refTable (.code 1) = .ok 1 ∧
    (∀ m, resolveMode refTable (.code 2) ≠ .ok m) ∧ resolveChannel (.code 7) = .ok 7 := by decide

/-- OneStatusAndAtMostOneTransmit, OkMeansTheTransportAnsweredOk, and with the answer `fail` the premise of
TransportFailureKeepsTheEvent. -/
theorem witness_exec_answers :
    (∃ t, exec .reset (block .w12 [.ok]) = .next t ∧ t.status = .ok) ∧
    (∃ t, exec .reset (block .w12 [.fail]) = .next t ∧ t.status = .transportFailure) :=
  ⟨⟨_, rfl, rfl⟩, ⟨_, rfl, rfl⟩⟩

/-- TransportFailureKeepsTheEvent's clause on the two answers. -/
theorem witness_two_answers :
    (block .w12 []).phase = .idle ∧ buildWord (block .w12 []).cfg (.updateDacRegister (.name "DAC_H")) = .ok 0x01700000 := by
  decide

/-- ValidationErrorSendsNothing. -/
theorem witness_validation_error :
    ∃ t, (running .w12 [⟨9, .code 0, .code 0, 0⟩] []).nextRequest = some ⟨9, .code 0, .code 0, 0⟩ ∧
      presentRequest (running .w12 [⟨9, .code 0, .code 0, 0⟩] []) = .next t ∧ t.status ∈ validationErrors :=
  ⟨_, rfl, rfl, by decide⟩

/-- NoShadowState: two blocks that differ in STATUS, CMD_WORD and history. -/
theorem witness_no_shadow :
    let s' : State := { block .w12 [.ok] with status := .invalidMode, cmdWord := 0xFFFFFFFF, k := 7 }
    (block .w12 [.ok]).phase = .idle ∧ s'.phase = .idle ∧ (block .w12 [.ok]).cfg = s'.cfg ∧
      (block .w12 [.ok]).nextOutcome = s'.nextOutcome := by decide

/-- OverlappingRequestIsRefused. -/
theorem witness_busy : (block .w12 []).accept.phase = .busy := by decide

/-- OpSelectEqualsOpcode's first clause and StepRunsTheSelectedOperation's premises, with each form of the reset
line. -/
theorem witness_selected :
    let s := running .w12 [⟨8, .code 0, .name "ON", 0⟩] [.quiet]
    s.program[s.k]? = some ⟨8, .code 0, .name "ON", 0⟩ ∧
      decodeRequest ⟨8, .code 0, .name "ON", 0⟩ = some (.setInternalReferenceMode (.name "ON")) ∧
      s.resets = .quiet :: [] ∧ ({ s with resets := [] } : State).resets = [] := by decide

/-- OpSelectEqualsOpcode's nine clauses: each op select is some request's, with fields that all differ. -/
theorem witness_op_selects :
    [0x0, 0x1, 0x2, 0x3, 0x4, 0x5, 0x6, 0x7, 0x8].map
        (fun op => (⟨op, .name "DAC_B", .name "SW", 7⟩ : Request).op.toNat) = [0, 1, 2, 3, 4, 5, 6, 7, 8] := by decide

/-- UnusedOpSelectIsRejected, at the least unused op select, with each form of the quiet reset line. -/
theorem witness_unused_op :
    let s := running .w12 [⟨9, .name "DAC_A", .code 0, 0⟩] []
    s.phase = .idle ∧ s.program[s.k]? = some ⟨9, .name "DAC_A", .code 0, 0⟩ ∧
      9 ≤ (⟨9, .name "DAC_A", .code 0, 0⟩ : Request).op.toNat ∧ s.resets = [] ∧
      ({ s with resets := [.quiet] } : State).resets = .quiet :: [] := by decide

/-- WaitsWithoutARequest, at the end of a program of no requests, with each form of the quiet reset line;
IdleBlockAlwaysAnswers and OperationsAreTotalAndDeterministic. -/
theorem witness_waiting :
    State.reset.program.length ≤ State.reset.k ∧ State.reset.phase = .idle ∧ State.reset.resets = [] ∧
    ({ State.reset with resets := [.quiet] } : State).resets = .quiet :: [] := by decide

/-- CfgIsNeverChanged, LogsOnlyGrow, PositionAdvancesWithEachStatus and StatusWrittenOnlyAtCompletionOrReset: a step
that completes a request, and one that takes a block reset with a restart. -/
theorem witness_step_answers :
    (∃ t, step (running .w12 [⟨7, .code 0, .code 0, 0⟩] []) = .next t ∧ t.k = 1) ∧
    (∃ t, step { running .w12 [] [.arrives .whileIdle true] with k := 3 } = .next t ∧ t.k = 0) :=
  ⟨⟨_, rfl, rfl⟩, ⟨_, rfl, rfl⟩⟩

/-- A state with the invariant that has completed requests of three kinds. -/
def midRun : State :=
  { running .w12 [⟨7, .code 0, .code 0, 0⟩] [] with
    status := .invalidMode
    txLog := [⟨⟨0x07, 0, 0, 0⟩, .ok⟩, ⟨⟨0x06, 0, 0, 0⟩, .fail⟩]
    statusLog := [.ok, .transportFailure, .invalidMode] }

/-- EveryStepKeepsTheInvariant. -/
theorem witness_invariant : Inv midRun ∧ ∃ t, step midRun = .next t :=
  ⟨⟨by decide, by decide, by decide, by decide, by decide, by decide, by decide⟩, ⟨_, rfl⟩⟩

/-- ConstructionFollowsTheTable and ResetStateIsTheGivenModels. -/
theorem witness_table :
    sampleTable.legal = true ∧ ("sample-6", ⟨.w16, .v5p0, .halfScale⟩) ∈ sampleTable ∧
    "AD5628-9" ∉ sampleTable.map Prod.fst := by decide

/-- BlockResetKeepsCfgAndLogs, at the three points, the third with no request to take. -/
theorem witness_block_reset :
    (running .w12 [] [.arrives .whileIdle false]).resets = .arrives .whileIdle false :: [] ∧
    (running .w12 [] [.arrives .beforeTransmit true]).resets = .arrives .beforeTransmit true :: [] ∧
    ResetPoint.whileIdle ≠ .duringTransmit ∧ ResetPoint.beforeTransmit ≠ .duringTransmit ∧
    (let s := running .w12 [] [.arrives .duringTransmit false]
     s.resets = .arrives .duringTransmit false :: [] ∧ s.phase = .idle ∧ s.program[s.k]? = none) := by decide

/-- BlockResetAbandonsTheRequest: a request whose word is in flight, and one that fails a check. -/
theorem witness_abandoned :
    let s := running .w12 [⟨0, .code 7, .code 0, 0xFFF⟩] [.arrives .duringTransmit false]
    let s' := running .w12 [⟨0, .code 8, .code 0, 0xFFF⟩] [.arrives .duringTransmit false]
    s.phase = .idle ∧ s.program[s.k]? = some ⟨0, .code 7, .code 0, 0xFFF⟩ ∧
      s.resets = .arrives .duringTransmit false :: [] ∧
      buildRequest s.cfg ⟨0, .code 7, .code 0, 0xFFF⟩ = .ok 0x007FFF00 ∧
      s'.phase = .idle ∧ s'.program[s'.k]? = some ⟨0, .code 8, .code 0, 0xFFF⟩ ∧
      buildRequest s'.cfg ⟨0, .code 8, .code 0, 0xFFF⟩ = .error .invalidChannel := by decide

/-- BlockResetLogsTheWordInProgress. -/
theorem witness_in_progress :
    let s := ((running .w12 [] [.arrives .duringTransmit false]).accept).latch 0x07000000
    s.phase = .busy ∧ s.resets = .arrives .duringTransmit false :: [] := by decide

/-- EncodingIsNotInjective's premise. -/
theorem witness_hw_channel : resolveChannel (.name "DAC_H") = .ok 7 := by decide

end Sys2Proof.Tests
end

