-- ==== Sys2Proof/Proofs/Checks.lean ====
section
/-! The errors of the operand checks and of `Build`: which status each can raise (R78, R80, R82, R152). -/

namespace Sys2Proof.Machine

open Sys2Proof.Safety

/-- A check raises validation errors only. -/
def RaisesValidation {α : Type} (checked : Except Status α) : Prop :=
  ∀ e, checked = .error e → e ∈ validationErrors

theorem resolveChannel_error {chan : Sel} {e : Status} (h : resolveChannel chan = .error e) :
    e = .invalidChannel := by
  cases chan with
  | name _ =>
    simp only [resolveChannel] at h
    split at h
    · cases h
    · cases h; rfl
  | code _ =>
    simp only [resolveChannel] at h
    split at h
    · cases h
    · cases h; rfl

theorem resolveMode_error {table : List (String × BitVec 2)} {mode : Sel} {e : Status}
    (h : resolveMode table mode = .error e) : e = .invalidMode := by
  cases mode with
  | name _ =>
    simp only [resolveMode] at h
    split at h
    · cases h
    · cases h; rfl
  | code _ =>
    simp only [resolveMode] at h
    split at h
    · cases h
    · cases h; rfl

theorem checkValue_error {m : DeviceModel} {v : BitVec 16} {e : Status} (h : checkValue m v = .error e) :
    e = .invalidValue := by
  unfold checkValue at h
  split at h
  · cases h
  · cases h; rfl

theorem raisesValidation_resolveChannel (chan : Sel) : RaisesValidation (resolveChannel chan) := by
  intro e h
  simp [resolveChannel_error h, validationErrors]

theorem raisesValidation_resolveMode (table : List (String × BitVec 2)) (mode : Sel) :
    RaisesValidation (resolveMode table mode) := by
  intro e h
  simp [resolveMode_error h, validationErrors]

theorem raisesValidation_checkValue (m : DeviceModel) (v : BitVec 16) : RaisesValidation (checkValue m v) := by
  intro e h
  simp [checkValue_error h, validationErrors]

theorem raisesValidation_ok {α : Type} (a : α) : RaisesValidation (.ok a : Except Status α) :=
  fun _ h => nomatch h

/-- A check followed by further checks. -/
theorem RaisesValidation.bind {α β : Type} {x : Except Status α} {f : α → Except Status β}
    (hx : RaisesValidation x) (hf : ∀ a, RaisesValidation (f a)) : RaisesValidation (x >>= f) := by
  cases x with
  | error e => exact fun _ h => by cases h; exact hx e rfl
  | ok a => exact hf a

theorem raisesValidation_buildWrite (cmd : Nibble) (m : DeviceModel) (chan : Sel) (value : BitVec 16) :
    RaisesValidation (buildWrite cmd m chan value) :=
  (raisesValidation_resolveChannel chan).bind fun _ =>
    (raisesValidation_checkValue m value).bind fun _ => raisesValidation_ok _

/-- No operation's checks raise anything but a validation error (R152). -/
theorem raisesValidation_buildWord (m : DeviceModel) (i : Instr) : RaisesValidation (buildWord m i) := by
  cases i with
  | writeInputRegister chan value => exact raisesValidation_buildWrite 0x0 m chan value
  | updateDacRegister chan => exact (raisesValidation_resolveChannel chan).bind fun _ => raisesValidation_ok _
  | writeInputRegisterUpdateAll chan value => exact raisesValidation_buildWrite 0x2 m chan value
  | writeAndUpdateChannel chan value => exact raisesValidation_buildWrite 0x3 m chan value
  | setPowerMode mode chan =>
    exact (raisesValidation_resolveMode powerTable mode).bind fun _ =>
      (raisesValidation_resolveChannel chan).bind fun _ => raisesValidation_ok _
  | setClearCodeMode mode => exact (raisesValidation_resolveMode clearTable mode).bind fun _ => raisesValidation_ok _
  | setLdacMode mode chan =>
    exact (raisesValidation_resolveMode ldacTable mode).bind fun _ =>
      (raisesValidation_resolveChannel chan).bind fun _ => raisesValidation_ok _
  | reset => exact raisesValidation_ok _
  | setInternalReferenceMode mode =>
    exact (raisesValidation_resolveMode refTable mode).bind fun _ => raisesValidation_ok _

end Sys2Proof.Machine
end

