-- ==== Sys2Proof/Proofs/Operations.lean ====
section
/-! What an operation does on an idle block, given what its checks and `Build` answer. -/

namespace Sys2Proof.Machine

/-- A failed check ends the operation without a transmit (R152). -/
theorem exec_of_buildWord_error {i : Instr} {s : State} {e : Status} (hidle : s.phase = .idle)
    (hbuild : buildWord s.cfg i = .error e) : exec i s = .next (rejectRequest e s) := by
  rw [exec_eq_runRequest, hbuild, runRequest_error hidle]

/-- Once every check has passed, the operation sends the word it built (R85). -/
theorem exec_of_buildWord_ok {i : Instr} {s : State} {w : Word} (hidle : s.phase = .idle)
    (hbuild : buildWord s.cfg i = .ok w) : exec i s = .next (transmitRequest w s) := by
  rw [exec_eq_runRequest, hbuild, runRequest_ok hidle]

/-- Settles O32: an operation's checks and word depend on the configuration alone, so one case split on what
`buildWord` answers gives the outcome on every idle block of that configuration. -/
theorem operationsAreTotalAndDeterministic : Obligations.OperationsAreTotalAndDeterministic := by
  intro i s hidle
  cases hbuild : buildWord s.cfg i with
  | error e =>
    refine ⟨_, exec_of_buildWord_error hidle hbuild,
      .inl ⟨raisesValidation_buildWord s.cfg i e hbuild, rfl, fun s' hidle' hcfg => ?_⟩⟩
    exact ⟨_, exec_of_buildWord_error hidle' (hcfg ▸ hbuild), rfl, rfl⟩
  | ok w =>
    refine ⟨_, exec_of_buildWord_ok hidle hbuild,
      .inr ⟨serialize w, transmitRequest_txLog w s, transmitRequest_status w s, fun s' hidle' hcfg => ?_⟩⟩
    exact ⟨_, exec_of_buildWord_ok hidle' (hcfg ▸ hbuild), transmitRequest_txLog w s'⟩

end Sys2Proof.Machine
end

