-- ==== Sys2Proof/Proofs/Configuration.lean ====
section
/-! CFG through a step, the ranges of its fields, and SHIFT for each data width (R21, R25). -/

namespace Sys2Proof.Machine

/-! ### What a step does to CFG -/

@[simp] theorem rejectRequest_cfg (e : Status) (s : State) : (rejectRequest e s).cfg = s.cfg := rfl

@[simp] theorem takeBlockReset_cfg (point : ResetPoint) (restart : Bool) (s : State) :
    (takeBlockReset point restart s).cfg = s.cfg := by
  obtain h | ⟨w, -, -, h⟩ := takeBlockReset_cases point restart s
  · rw [h, blockReset_cfg]
  · rw [h, blockReset_cfg, State.logTransmit_cfg, State.latch_cfg]

/-- A request, a wait and a block reset all leave CFG as it was (R21). -/
theorem step_cfg {s t : State} (h : step s = .next t) : t.cfg = s.cfg := by
  obtain ⟨u, hu, hstep⟩ := step_next h
  have hucfg : u.cfg = s.cfg := by
    obtain rfl | rfl := hu
    · rfl
    · exact State.popReset_cfg s
  rw [← hucfg]
  obtain ⟨point, restart, -, -, -, rfl⟩ | ⟨-, rfl⟩ | ⟨-, e, -, -, -, rfl⟩ | ⟨-, w, -, -, -, rfl⟩ := hstep
  · exact takeBlockReset_cfg point restart u
  · rfl
  · exact rejectRequest_cfg e u
  · exact transmitRequest_cfg w u

theorem cfgOut_eq_of_cfg_eq {s t : State} (h : t.cfg = s.cfg) : t.cfgOut = s.cfgOut :=
  congrArg cfgBits h

/-! ### The ranges of a DeviceModel -/

theorem bits_mem_range (w : DataWidth) : w.bits ∈ [12, 14, 16] := by
  cases w <;> decide

theorem milliVolts_mem_range (v : RefVoltage) : v.milliVolts ∈ [2500, 5000] := by
  cases v <;> decide

theorem multiplier_mem_range (p : PowerUp) : p.multiplier ∈ [(0 : Rat), 1 / 2] := by
  cases p with
  | zeroScale => exact List.mem_cons_self
  | halfScale => exact List.mem_cons_of_mem _ List.mem_cons_self

/-- Settles O44: every kind of step keeps CFG, and each field of a DeviceModel has only the constructors R21 lists. -/
theorem cfgIsNeverChanged : Obligations.CfgIsNeverChanged :=
  ⟨fun _ _ h => ⟨step_cfg h, cfgOut_eq_of_cfg_eq (step_cfg h)⟩,
    fun s => ⟨bits_mem_range s.cfg.dataWidth, milliVolts_mem_range s.cfg.referenceVoltage,
      multiplier_mem_range s.cfg.powerUpMultiplier⟩⟩

/-! ### SHIFT -/

theorem shiftOf_of_w12 {m : DeviceModel} (h : m.dataWidth = .w12) : shiftOf m = 8 := by
  simp [shiftOf, h, DataWidth.bits]

theorem shiftOf_of_w14 {m : DeviceModel} (h : m.dataWidth = .w14) : shiftOf m = 6 := by
  simp [shiftOf, h, DataWidth.bits]

theorem shiftOf_of_w16 {m : DeviceModel} (h : m.dataWidth = .w16) : shiftOf m = 4 := by
  simp [shiftOf, h, DataWidth.bits]

/-- Settles O20: `20 - dataWidth` at each of the three widths (R25). -/
theorem shiftOfEachDataWidth : Obligations.ShiftOfEachDataWidth :=
  fun _ => ⟨shiftOf_of_w12, shiftOf_of_w14, shiftOf_of_w16⟩

end Sys2Proof.Machine
end

