-- ==== Sys2Proof/Proofs/Memory.lean ====
section
/-! The bytes of a word and their bits on the wire (R52, R53). -/

namespace Sys2Proof.Machine

/-! ### The bytes of a word -/

theorem extractLsb'_byte_toNat (w : Word) (start : Nat) :
    (w.extractLsb' start 8).toNat = w.toNat / 2 ^ start % 2 ^ 8 := by
  rw [BitVec.extractLsb'_toNat, Nat.shiftRight_eq_div_pow]

/-- No bit of a word lies above its first byte, so the quotient is the byte. -/
theorem serialize_b0_toNat (w : Word) : (serialize w).b0.toNat = w.toNat / 2 ^ 24 := by
  have hlt : w.toNat / 2 ^ 24 < 2 ^ 8 := Nat.div_lt_of_lt_mul w.isLt
  exact (extractLsb'_byte_toNat w 24).trans (Nat.mod_eq_of_lt hlt)

theorem serialize_b1_toNat (w : Word) : (serialize w).b1.toNat = w.toNat / 2 ^ 16 % 2 ^ 8 :=
  extractLsb'_byte_toNat w 16

theorem serialize_b2_toNat (w : Word) : (serialize w).b2.toNat = w.toNat / 2 ^ 8 % 2 ^ 8 :=
  extractLsb'_byte_toNat w 8

theorem serialize_b3_toNat (w : Word) : (serialize w).b3.toNat = w.toNat % 2 ^ 8 := by
  have h : (serialize w).b3.toNat = w.toNat / 2 ^ 0 % 2 ^ 8 := extractLsb'_byte_toNat w 0
  rwa [Nat.pow_zero, Nat.div_one] at h

/-- Settles O2: each byte is the word divided by the weight of its lowest bit, modulo 256 (R52). -/
theorem serializeMostSignificantFirst : Obligations.SerializeMostSignificantFirst :=
  fun w => ⟨serialize_b0_toNat w, serialize_b1_toNat w, serialize_b2_toNat w, serialize_b3_toNat w⟩

/-! ### The bits on the wire -/

/-- The byte whose lowest bit is bit `start` of the word goes out from bit `start + 7` down to bit `start`. -/
theorem byteBits_extractLsb' (w : Word) (start : Nat) :
    byteBits (w.extractLsb' start 8) = (List.range 8).map (fun n => w.getLsbD (start + (7 - n))) := by
  simp [byteBits, List.range_succ]

/-- The streams of the bytes at 24, 16, 8 and 0 are four consecutive runs of eight bits. -/
theorem wireBits_serialize (w : Word) :
    wireBits (serialize w) = (List.range 32).map (fun n => w.getLsbD (31 - n)) := by
  simp only [wireBits, serialize, byteBits_extractLsb']
  rfl

/-- Settles O3: the four bytes in order, each from its bit 7 down, are the word's bits from 31 down (R53). -/
theorem wireBitsFromBit31Down : Obligations.WireBitsFromBit31Down :=
  wireBits_serialize

end Sys2Proof.Machine
end

