-- ==== Sys2Proof/Proofs/Operands.lean ====
section
/-! What channel and mode operands resolve to: a name through its table, a numeric code by its range (R75 to R80). -/

namespace Sys2Proof.Machine

/-! ### Names in a table -/

theorem mem_of_lookup_eq_some {α : Type} {table : List (String × α)} {s : String} {a : α}
    (h : table.lookup s = some a) : (s, a) ∈ table := by
  obtain ⟨before, after, rfl, -⟩ := List.lookup_eq_some_iff.mp h
  simp

theorem lookup_eq_none_of_notMem {α : Type} {table : List (String × α)} {s : String}
    (h : s ∉ table.map Prod.fst) : table.lookup s = none :=
  List.lookup_eq_none_iff.mpr fun _ hp => bne_iff_ne.mpr fun heq => h (heq ▸ List.mem_map_of_mem hp)

/-! ### Channels -/

theorem isChannelAddr_iff (c : Nibble) : isChannelAddr c = true ↔ c.toNat ≤ 7 ∨ c.toNat = 15 := by
  simp [isChannelAddr]

theorem mem_channelCodes_iff (n : Nat) : n ∈ [0, 1, 2, 3, 4, 5, 6, 7, 15] ↔ n ≤ 7 ∨ n = 15 := by
  simp only [List.mem_cons, List.not_mem_nil, or_false]
  omega

theorem resolveChannel_name_of_mem :
    ∀ entry ∈ channelTable, resolveChannel (.name entry.1) = .ok entry.2 := by
  decide

theorem resolveChannel_name_of_notMem {s : String} (h : s ∉ channelTable.map Prod.fst) :
    resolveChannel (.name s) = .error .invalidChannel := by
  simp [resolveChannel, lookup_eq_none_of_notMem h]

theorem resolveChannel_code (n : BitVec 8) : resolveChannel (.code n) =
    if n.toNat ≤ 7 ∨ n.toNat = 15 then .ok (n.setWidth 4) else .error .invalidChannel := rfl

theorem resolveChannel_code_setWidth :
    ∀ c : Nibble, isChannelAddr c = true → resolveChannel (.code (c.setWidth 8)) = .ok c := by
  decide

/-- Whatever the selector, a channel that resolves is a channel address (R51, R78). -/
theorem isChannelAddr_of_resolveChannel {chan : Sel} {c : Nibble} (h : resolveChannel chan = .ok c) :
    isChannelAddr c = true := by
  cases chan with
  | name s =>
    have htable : ∀ entry ∈ channelTable, isChannelAddr entry.2 = true := by decide
    simp only [resolveChannel] at h
    split at h
    next hlookup => cases h; exact htable _ (mem_of_lookup_eq_some hlookup)
    next => cases h
  | code n =>
    rw [resolveChannel_code] at h
    split at h
    · cases h
      rw [isChannelAddr_iff, BitVec.toNat_setWidth]
      omega
    · cases h

/-- Settles O15: a name goes through the table's lookup, a code through the range test, and both answer channel
addresses only (R78). -/
theorem channelResolution : Obligations.ChannelResolution := by
  refine ⟨fun s c => resolveChannel_name_of_mem (s, c), fun s => resolveChannel_name_of_notMem, fun n => ?_,
    fun x c h => ?_⟩
  · simp only [mem_channelCodes_iff, BitVec.ofNat_toNat]
    exact resolveChannel_code n
  · exact (mem_channelCodes_iff _).mpr ((isChannelAddr_iff c).mp (isChannelAddr_of_resolveChannel h))

/-! ### Modes -/

theorem resolveMode_name_of_mem :
    ∀ table ∈ [powerTable, clearTable, ldacTable, refTable], ∀ entry ∈ table,
      resolveMode table (.name entry.1) = .ok entry.2 := by
  decide

theorem resolveMode_name_of_notMem {table : List (String × BitVec 2)} {s : String}
    (h : s ∉ table.map Prod.fst) : resolveMode table (.name s) = .error .invalidMode := by
  simp [resolveMode, lookup_eq_none_of_notMem h]

/-- Against a table whose codes are all the numbers below `bound`, a numeric operand is its own code (R80). -/
theorem resolveMode_code {table : List (String × BitVec 2)} {bound : Nat} (hbound : bound ≤ 4)
    (hcodes : ∀ p : BitVec 2, p ∈ table.map Prod.snd ↔ p.toNat < bound) (n : BitVec 8) :
    resolveMode table (.code n) = if n.toNat < bound then .ok (n.setWidth 2) else .error .invalidMode := by
  simp only [resolveMode]
  split
  next entry hfind =>
    have hcode : entry.2.setWidth 8 = n := by simpa using List.find?_some hfind
    have hlt : entry.2.toNat < bound := (hcodes _).mp (List.mem_map_of_mem (List.mem_of_find?_eq_some hfind))
    subst hcode
    simpa using (Nat.mod_le entry.2.toNat 256).trans_lt hlt
  next hfind =>
    refine (if_neg fun hlt => ?_).symm
    have hnarrow : (n.setWidth 2).toNat = n.toNat := by
      rw [BitVec.toNat_setWidth]
      omega
    obtain ⟨entry, hmem, hentry⟩ := List.mem_map.mp ((hcodes (n.setWidth 2)).mpr (hnarrow.symm ▸ hlt))
    refine List.find?_eq_none.mp hfind entry hmem (beq_iff_eq.mpr (BitVec.eq_of_toNat_eq ?_))
    rw [BitVec.toNat_setWidth, hentry, hnarrow]
    omega

theorem resolveMode_code_setWidth :
    ∀ table ∈ [powerTable, clearTable, ldacTable, refTable], ∀ p ∈ table.map Prod.snd,
      resolveMode table (.code (p.setWidth 8)) = .ok p := by
  decide

theorem mem_codes_of_resolveMode {table : List (String × BitVec 2)} {mode : Sel} {p : BitVec 2}
    (h : resolveMode table mode = .ok p) : p ∈ table.map Prod.snd := by
  cases mode with
  | name s =>
    simp only [resolveMode] at h
    split at h
    next hlookup => cases h; exact List.mem_map_of_mem (mem_of_lookup_eq_some hlookup)
    next => cases h
  | code n =>
    simp only [resolveMode] at h
    split at h
    next hfind => cases h; exact List.mem_map_of_mem (List.mem_of_find?_eq_some hfind)
    next => cases h

theorem mem_codes_iff_of_two_bits :
    ∀ table ∈ [powerTable, clearTable], ∀ p : BitVec 2, p ∈ table.map Prod.snd ↔ p.toNat < 4 := by
  decide

theorem mem_codes_iff_of_one_bit :
    ∀ table ∈ [ldacTable, refTable], ∀ p : BitVec 2, p ∈ table.map Prod.snd ↔ p.toNat < 2 := by
  decide

theorem toNat_lt_two_of_resolveMode {table : List (String × BitVec 2)} (htable : table ∈ [ldacTable, refTable])
    {mode : Sel} {p : BitVec 2} (h : resolveMode table mode = .ok p) : p.toNat < 2 :=
  (mem_codes_iff_of_one_bit table htable p).mp (mem_codes_of_resolveMode h)

/-- Settles O17: the codes of POWER and CLEAR are the numbers below 4, those of LDAC and REF the numbers below 2, and
a numeric operand is tested against them (R80). -/
theorem modeResolution : Obligations.ModeResolution := by
  refine ⟨fun table htable => ⟨fun s m => resolveMode_name_of_mem table htable (s, m),
    fun s => resolveMode_name_of_notMem⟩, fun n table htable => ?_, fun n table htable => ?_, fun x m h => ?_⟩
  · rw [BitVec.ofNat_toNat]
    exact resolveMode_code (by decide) (mem_codes_iff_of_two_bits table htable) n
  · rw [BitVec.ofNat_toNat]
    exact resolveMode_code (by decide) (mem_codes_iff_of_one_bit table htable) n
  · obtain h | h := h
    · exact toNat_lt_two_of_resolveMode (by decide) h
    · exact toNat_lt_two_of_resolveMode (by decide) h

end Sys2Proof.Machine
end

