-- ==== Sys2Proof/Proofs/CommandWord.lean ====
section
/-! `Pack` and the four fields of a word (R70, R71). -/

namespace Sys2Proof.Machine

/-! ### Pack as its four fields side by side -/

theorem pack_eq_append (cmd addr : Nibble) (data : Payload) :
    pack cmd addr data = 0#4 ++ cmd ++ addr ++ data := by
  have h := BitVec.setWidth_append_append_append_eq_shiftLeft_setWidth_or (w'''' := 32)
    (b := 0#4) (b' := cmd) (b'' := addr) (b''' := data)
  simpa [pack] using h.symm

@[simp] theorem pack_pad (cmd addr : Nibble) (data : Payload) : (pack cmd addr data).extractLsb' 28 4 = 0 := by
  rw [pack_eq_append, BitVec.append_assoc, BitVec.append_assoc]
  exact BitVec.extractLsb'_append_eq_left

@[simp] theorem pack_cmd (cmd addr : Nibble) (data : Payload) : (pack cmd addr data).extractLsb' 24 4 = cmd := by
  rw [pack_eq_append, BitVec.extractLsb'_append_eq_of_le (by decide), BitVec.extractLsb'_append_eq_of_le (by decide)]
  exact BitVec.extractLsb'_append_eq_right

@[simp] theorem pack_addr (cmd addr : Nibble) (data : Payload) : (pack cmd addr data).extractLsb' 20 4 = addr := by
  rw [pack_eq_append, BitVec.extractLsb'_append_eq_of_le (by decide)]
  exact BitVec.extractLsb'_append_eq_right

@[simp] theorem pack_data (cmd addr : Nibble) (data : Payload) : (pack cmd addr data).extractLsb' 0 20 = data := by
  rw [pack_eq_append]
  exact BitVec.extractLsb'_append_eq_right

theorem pack_low_bits (cmd addr : Nibble) (data : Payload) {n : Nat} (hn : n ≤ 20) :
    (pack cmd addr data).extractLsb' 0 n = data.extractLsb' 0 n := by
  rw [pack_eq_append, BitVec.extractLsb'_append_eq_of_add_le (by omega)]

/-- The OR of `BitVec.toNat_append` is a sum, since the two parts share no bit. -/
theorem toNat_append_eq_add {m n : Nat} (x : BitVec m) (y : BitVec n) :
    (x ++ y).toNat = x.toNat * 2 ^ n + y.toNat := by
  rw [BitVec.toNat_append, ← Nat.shiftLeft_add_eq_or_of_lt y.isLt, Nat.shiftLeft_eq]

theorem pack_toNat (cmd addr : Nibble) (data : Payload) :
    (pack cmd addr data).toNat = cmd.toNat * 2 ^ 24 + addr.toNat * 2 ^ 20 + data.toNat := by
  simp only [pack_eq_append, toNat_append_eq_add, BitVec.toNat_ofNat]
  omega

/-- Settles O1: the word is its four fields side by side, so each is read back whole and the OR is a sum (R71). -/
theorem packPlacesEachField : Obligations.PackPlacesEachField :=
  fun cmd addr data => ⟨pack_pad cmd addr data, pack_cmd cmd addr data, pack_addr cmd addr data,
    pack_data cmd addr data, pack_toNat cmd addr data⟩

/-! ### A word from its fields -/

/-- A word whose PAD is 0 is the `Pack` of its other three fields. -/
theorem pack_fields {w : Word} (hpad : w.extractLsb' 28 4 = 0) :
    pack (w.extractLsb' 24 4) (w.extractLsb' 20 4) (w.extractLsb' 0 20) = w := by
  rw [pack_eq_append]
  calc 0#4 ++ w.extractLsb' 24 4 ++ w.extractLsb' 20 4 ++ w.extractLsb' 0 20
      = w.extractLsb' 28 4 ++ w.extractLsb' 24 4 ++ w.extractLsb' 20 4 ++ w.extractLsb' 0 20 := by rw [hpad]; rfl
    _ = w.extractLsb' 0 32 := by
      rw [BitVec.extractLsb'_append_extractLsb'_eq_extractLsb' (show 28 = 24 + 4 from rfl),
        BitVec.extractLsb'_append_extractLsb'_eq_extractLsb' (show 24 = 20 + 4 from rfl),
        BitVec.extractLsb'_append_extractLsb'_eq_extractLsb' (show 20 = 0 + 20 from rfl)]
    _ = w := BitVec.extractLsb'_eq_self

/-- Any part of a run of zero bits is zero. -/
theorem extractLsb'_eq_zero_of_le {w : Word} {s n s' n' : Nat} (h : w.extractLsb' s n = 0) (hs : s ≤ s')
    (hn : s' + n' ≤ s + n) : w.extractLsb' s' n' = 0 := by
  ext i hi
  have hbit := congrArg (fun b => b.getLsbD (s' - s + i)) h
  have hlt : s' - s + i < n := by omega
  have hpos : s + (s' - s + i) = s' + i := by omega
  simpa [hlt, hpos] using hbit

theorem extractLsb'_shiftLeft_low {n : Nat} (x : BitVec n) (s : Nat) : (x <<< s).extractLsb' 0 s = 0#s := by
  ext i hi
  simp [hi]

theorem shiftLeft_and_not_allOnes_shiftLeft {n : Nat} (x : BitVec n) (s : Nat) :
    x <<< s &&& ~~~ (BitVec.allOnes n <<< s) = 0#n := by
  ext i hi
  by_cases h : i < s
  · simp [h]
  · simp [h]

/-- DATA of a word whose bits from `n` up to ADDR are 0. -/
theorem data_eq_setWidth {w : Word} {n : Nat} (h : w.extractLsb' n (24 - n) = 0) :
    w.extractLsb' 0 20 = (w.extractLsb' 0 n).setWidth 20 := by
  ext i hi
  by_cases hlow : i < n
  · simp [hlow]
  · have hbit := congrArg (fun b => b.getLsbD (i - n)) h
    have hlt : i - n < 24 - n := by omega
    have hpos : n + (i - n) = i := by omega
    simpa [hlow, hlt, hpos] using hbit

/-- A payload with `SHIFT` zero bits at its low end holds a checked value (R74, R82). -/
theorem exists_alignValue_eq {m : DeviceModel} {data : Payload} (h : data.extractLsb' 0 (20 - m.dataWidth.bits) = 0) :
    ∃ v : BitVec 16, v.toNat < 2 ^ m.dataWidth.bits ∧ alignValue m v = data := by
  refine ⟨(data >>> (20 - m.dataWidth.bits)).setWidth 16, ?_, BitVec.eq_of_toNat_eq ?_⟩
  · have hlt : (data >>> (20 - m.dataWidth.bits)).toNat < 2 ^ m.dataWidth.bits := by
      have hle : m.dataWidth.bits ≤ 20 := by cases m.dataWidth <;> decide
      rw [BitVec.toNat_ushiftRight, Nat.shiftRight_eq_div_pow]
      apply Nat.div_lt_of_lt_mul
      rw [← Nat.pow_add, Nat.sub_add_cancel hle]
      exact data.isLt
    exact (BitVec.toNat_setWidth 16 _ ▸ Nat.mod_le _ _).trans_lt hlt
  · have hmod := congrArg BitVec.toNat h
    cases hdw : m.dataWidth <;>
      simp [alignValue, shiftOf, hdw, DataWidth.bits, Nat.shiftLeft_eq, Nat.shiftRight_eq_div_pow] at hmod ⊢ <;>
      omega

end Sys2Proof.Machine
end

