-- ==== Sys2Proof/Proofs/ChannelBits.lean ====
section
/-! The channel bits of a power-down or LDAC word: how many are set, and DATA with exactly one of them (R74, R92). -/

namespace Sys2Proof.Machine

/-! ### Bit vectors with no bit set, or one -/

theorem toNat_cpop_eq_zero_iff {n : Nat} (b : BitVec n) : b.cpop.toNat = 0 ↔ b = 0#n := by
  refine ⟨fun h => ?_, fun h => by simp [h]⟩
  induction n with
  | zero => exact BitVec.eq_nil b
  | succ n ih =>
    rw [← BitVec.cons_msb_setWidth b, BitVec.toNat_cpop_cons, Nat.add_eq_zero_iff] at h
    obtain ⟨hmsb, hrest⟩ := h
    rw [← BitVec.cons_msb_setWidth b, ih _ hrest, Bool.toNat_eq_zero.mp hmsb]
    ext i hi
    simp

theorem eq_twoPow_of_toNat_cpop {n : Nat} {b : BitVec n} (h : b.cpop.toNat = 1) :
    ∃ j < n, b = BitVec.twoPow n j := by
  induction n with
  | zero => simp [BitVec.eq_nil b] at h
  | succ n ih =>
    rw [← BitVec.cons_msb_setWidth b, BitVec.toNat_cpop_cons] at h
    rw [← BitVec.cons_msb_setWidth b]
    cases hmsb : b.msb with
    | true =>
      rw [hmsb] at h
      have hrest := (toNat_cpop_eq_zero_iff (b.setWidth n)).mp (Nat.add_left_cancel h)
      refine ⟨n, by omega, ?_⟩
      rw [hrest]
      ext i hi
      simp [BitVec.getElem_twoPow]
    | false =>
      obtain ⟨j, hj, hrest⟩ := ih (by simpa [hmsb] using h)
      refine ⟨j, by omega, ?_⟩
      rw [hrest]
      ext i hi
      simp [BitVec.getElem_cons, BitVec.getElem_twoPow]
      omega

/-! ### The channel bits of a word -/

theorem channelBits_getLsbD (w : Word) (j : Nat) :
    (channelBits w).getLsbD j = if j < 8 then w.getLsbD j else decide (j - 8 < 1) && w.getLsbD (15 + (j - 8)) := by
  rw [channelBits, BitVec.getLsbD_append]
  simp only [BitVec.getLsbD_extractLsb', Nat.zero_add]
  split
  next hlow => simp [hlow]
  next => rfl

/-- The count of R92 is the population count of the nine channel bits. -/
theorem channelBitCount_eq_cpop (w : Word) : channelBitCount w = (channelBits w).cpop.toNat := by
  simp only [channelBitCount, BitVec.toNat_cpop, BitVec.cpopNatRec_succ, BitVec.cpopNatRec_zero_self,
    channelBits_getLsbD]
  simp
  omega

theorem channelBits_eq_zero_of_channelBitCount {w : Word} (h : channelBitCount w = 0) : channelBits w = 0 :=
  (toNat_cpop_eq_zero_iff _).mp (channelBitCount_eq_cpop w ▸ h)

theorem exists_twoPow_of_channelBitCount {w : Word} (h : channelBitCount w = 1) :
    ∃ j < 9, channelBits w = BitVec.twoPow 9 j :=
  eq_twoPow_of_toNat_cpop (channelBitCount_eq_cpop w ▸ h)

/-- The channel address of bit `j` of `channelBits`; the highest bit is ALL_DAC's (decision D5). -/
def channelOfBit (j : Nat) : Nibble := if j = 8 then 15 else BitVec.ofNat 4 j

theorem isChannelAddr_channelOfBit : ∀ j < 9, isChannelAddr (channelOfBit j) = true := by decide

/-! ### DATA of formats P and L -/

/-- DATA with `mode` in bits [9:8] and the channel bits in bit 15 and bits [7:0] (R74). -/
def maskData (mode : BitVec 2) (bits : BitVec 9) : Payload :=
  0#4 ++ bits.extractLsb' 8 1 ++ 0#5 ++ mode ++ bits.extractLsb' 0 8

theorem data_eq_maskData {w : Word} (hhigh : w.extractLsb' 16 8 = 0) (hmid : w.extractLsb' 10 5 = 0) :
    w.extractLsb' 0 20 = maskData (w.extractLsb' 8 2) (channelBits w) := by
  have h16 : w.extractLsb' 16 4 = 0 := extractLsb'_eq_zero_of_le hhigh (by decide) (by decide)
  have h15 : (channelBits w).extractLsb' 8 1 = w.extractLsb' 15 1 := BitVec.extractLsb'_append_eq_left
  have h0 : (channelBits w).extractLsb' 0 8 = w.extractLsb' 0 8 := BitVec.extractLsb'_append_eq_right
  calc w.extractLsb' 0 20
      = w.extractLsb' 16 4 ++ w.extractLsb' 15 1 ++ w.extractLsb' 10 5 ++ w.extractLsb' 8 2 ++
          w.extractLsb' 0 8 := by
        rw [BitVec.extractLsb'_append_extractLsb'_eq_extractLsb' (show 16 = 15 + 1 from rfl),
          BitVec.extractLsb'_append_extractLsb'_eq_extractLsb' (show 15 = 10 + 5 from rfl),
          BitVec.extractLsb'_append_extractLsb'_eq_extractLsb' (show 10 = 8 + 2 from rfl),
          BitVec.extractLsb'_append_extractLsb'_eq_extractLsb' (show 8 = 0 + 8 from rfl)]
    _ = maskData (w.extractLsb' 8 2) (channelBits w) := by rw [maskData, h15, h0, h16, hmid]; rfl

theorem maskData_twoPow : ∀ j < 9, ∀ mode : BitVec 2,
    maskData mode (BitVec.twoPow 9 j) = (mode.setWidth 20 <<< 8) ||| channelBit (channelOfBit j) := by
  decide

theorem maskData_zero_twoPow : ∀ j < 9,
    maskData 0 (BitVec.twoPow 9 j) = (1#2).setWidth 20 <<< (channelOfBit j).toNat := by
  decide

end Sys2Proof.Machine
end

