-- ==== Sys2Proof/Proofs/Build.lean ====
section
/-! The words the block builds, as one list of formats (R74): every word built is of its operation's format, and every
word of a format is built by some operation. -/

namespace Sys2Proof.Machine

/-! ### The formats -/

/-- The ADDR and DATA fields a word of command opcode `cmd` can have (R74): `FormatFields m cmd addr data`. -/
inductive FormatFields (m : DeviceModel) : Nibble → Nibble → Payload → Prop
  /-- Format W. -/
  | write {cmd c : Nibble} {v : BitVec 16} (hcmd : cmd ∈ [0x0#4, 0x2#4, 0x3#4]) (hc : isChannelAddr c = true)
      (hv : v.toNat < 2 ^ m.dataWidth.bits) : FormatFields m cmd c (alignValue m v)
  /-- Format U. -/
  | update {c : Nibble} (hc : isChannelAddr c = true) : FormatFields m 0x1 c 0
  /-- Format P. -/
  | power {mode : BitVec 2} {c : Nibble} (hc : isChannelAddr c = true) :
      FormatFields m 0x4 0 ((mode.setWidth 20 <<< 8) ||| channelBit c)
  /-- Format C. -/
  | clear {mode : BitVec 2} : FormatFields m 0x5 0 (mode.setWidth 20)
  /-- Format L. -/
  | ldac {mode : BitVec 2} {c : Nibble} (hmode : mode.toNat < 2) (hc : isChannelAddr c = true) :
      FormatFields m 0x6 0 (mode.setWidth 20 <<< c.toNat)
  /-- Format R. -/
  | reset : FormatFields m 0x7 0 0
  /-- Format I. -/
  | reference {mode : BitVec 2} (hmode : mode.toNat < 2) : FormatFields m 0x8 0 (mode.setWidth 20)

/-- `w` is a word of the format of command opcode `cmd`. -/
def FormatWord (m : DeviceModel) (cmd : Nibble) (w : Word) : Prop :=
  ∃ addr data, FormatFields m cmd addr data ∧ pack cmd addr data = w

/-! ### When each `Build` answers a word -/

theorem bind_eq_ok_iff {α β : Type} {x : Except Status α} {f : α → Except Status β} {b : β} :
    x >>= f = .ok b ↔ ∃ a, x = .ok a ∧ f a = .ok b := by
  cases x <;> simp [bind, Except.bind]

theorem checkValue_eq_ok_iff {m : DeviceModel} {v u : BitVec 16} :
    checkValue m v = .ok u ↔ v.toNat < 2 ^ m.dataWidth.bits ∧ v = u := by
  unfold checkValue
  split
  next h => simp [h]
  next h => simp [h]

theorem buildWrite_eq_ok_iff {cmd : Nibble} {m : DeviceModel} {chan : Sel} {value : BitVec 16} {w : Word} :
    buildWrite cmd m chan value = .ok w ↔
      ∃ c, resolveChannel chan = .ok c ∧ value.toNat < 2 ^ m.dataWidth.bits ∧
        pack cmd c (alignValue m value) = w := by
  simp [buildWrite, bind_eq_ok_iff, checkValue_eq_ok_iff, pure, Except.pure, and_assoc]

theorem buildUpdateDacRegister_eq_ok_iff {chan : Sel} {w : Word} :
    buildUpdateDacRegister chan = .ok w ↔ ∃ c, resolveChannel chan = .ok c ∧ pack 0x1 c 0 = w := by
  simp [buildUpdateDacRegister, bind_eq_ok_iff, pure, Except.pure]

theorem buildSetPowerMode_eq_ok_iff {mode chan : Sel} {w : Word} :
    buildSetPowerMode mode chan = .ok w ↔
      ∃ p, resolveMode powerTable mode = .ok p ∧ ∃ c, resolveChannel chan = .ok c ∧
        pack 0x4 0 ((p.setWidth 20 <<< 8) ||| channelBit c) = w := by
  simp [buildSetPowerMode, bind_eq_ok_iff, pure, Except.pure]

theorem buildSetClearCodeMode_eq_ok_iff {mode : Sel} {w : Word} :
    buildSetClearCodeMode mode = .ok w ↔
      ∃ p, resolveMode clearTable mode = .ok p ∧ pack 0x5 0 (p.setWidth 20) = w := by
  simp [buildSetClearCodeMode, bind_eq_ok_iff, pure, Except.pure]

theorem buildSetLdacMode_eq_ok_iff {mode chan : Sel} {w : Word} :
    buildSetLdacMode mode chan = .ok w ↔
      ∃ p, resolveMode ldacTable mode = .ok p ∧ ∃ c, resolveChannel chan = .ok c ∧
        pack 0x6 0 (p.setWidth 20 <<< c.toNat) = w := by
  simp [buildSetLdacMode, bind_eq_ok_iff, pure, Except.pure]

theorem buildSetInternalReferenceMode_eq_ok_iff {mode : Sel} {w : Word} :
    buildSetInternalReferenceMode mode = .ok w ↔
      ∃ p, resolveMode refTable mode = .ok p ∧ pack 0x8 0 (p.setWidth 20) = w := by
  simp [buildSetInternalReferenceMode, bind_eq_ok_iff, pure, Except.pure]

/-! ### Every word built is of its operation's format -/

theorem formatWord_of_buildWrite {m : DeviceModel} {cmd : Nibble} {chan : Sel} {value : BitVec 16} {w : Word}
    (hcmd : cmd ∈ [0x0#4, 0x2#4, 0x3#4]) (h : buildWrite cmd m chan value = .ok w) : FormatWord m cmd w := by
  obtain ⟨c, hc, hlt, hw⟩ := buildWrite_eq_ok_iff.mp h
  exact ⟨_, _, .write hcmd (isChannelAddr_of_resolveChannel hc) hlt, hw⟩

theorem formatWord_of_buildWord {m : DeviceModel} {i : Instr} {w : Word} (h : buildWord m i = .ok w) :
    FormatWord m (opcode i) w := by
  cases i with
  | writeInputRegister chan value => exact formatWord_of_buildWrite (cmd := 0x0) (by decide) h
  | updateDacRegister chan =>
    obtain ⟨c, hc, hw⟩ := buildUpdateDacRegister_eq_ok_iff.mp h
    exact ⟨_, _, .update (isChannelAddr_of_resolveChannel hc), hw⟩
  | writeInputRegisterUpdateAll chan value => exact formatWord_of_buildWrite (cmd := 0x2) (by decide) h
  | writeAndUpdateChannel chan value => exact formatWord_of_buildWrite (cmd := 0x3) (by decide) h
  | setPowerMode mode chan =>
    obtain ⟨p, -, c, hc, hw⟩ := buildSetPowerMode_eq_ok_iff.mp h
    exact ⟨_, _, .power (isChannelAddr_of_resolveChannel hc), hw⟩
  | setClearCodeMode mode =>
    obtain ⟨p, -, hw⟩ := buildSetClearCodeMode_eq_ok_iff.mp h
    exact ⟨_, _, .clear, hw⟩
  | setLdacMode mode chan =>
    obtain ⟨p, hp, c, hc, hw⟩ := buildSetLdacMode_eq_ok_iff.mp h
    exact ⟨_, _, .ldac (toNat_lt_two_of_resolveMode (by decide) hp) (isChannelAddr_of_resolveChannel hc), hw⟩
  | reset => exact ⟨_, _, .reset, Except.ok.inj h⟩
  | setInternalReferenceMode mode =>
    obtain ⟨p, hp, hw⟩ := buildSetInternalReferenceMode_eq_ok_iff.mp h
    exact ⟨_, _, .reference (toNat_lt_two_of_resolveMode (by decide) hp), hw⟩

/-! ### Every word of a format is built -/

theorem exists_buildWord_of_formatFields {m : DeviceModel} {cmd addr : Nibble} {data : Payload}
    (h : FormatFields m cmd addr data) : ∃ i, buildWord m i = .ok (pack cmd addr data) := by
  cases h with
  | @write _ _ v hcmd hc hv =>
    have hbuild := fun cmd =>
      (buildWrite_eq_ok_iff (cmd := cmd)).mpr ⟨addr, resolveChannel_code_setWidth addr hc, hv, rfl⟩
    simp only [List.mem_cons, List.not_mem_nil, or_false] at hcmd
    obtain rfl | rfl | rfl := hcmd
    · exact ⟨.writeInputRegister _ v, hbuild 0x0⟩
    · exact ⟨.writeInputRegisterUpdateAll _ v, hbuild 0x2⟩
    · exact ⟨.writeAndUpdateChannel _ v, hbuild 0x3⟩
  | update hc =>
    exact ⟨.updateDacRegister _,
      buildUpdateDacRegister_eq_ok_iff.mpr ⟨_, resolveChannel_code_setWidth addr hc, rfl⟩⟩
  | @power mode c hc =>
    have hp := resolveMode_code_setWidth powerTable (by decide) mode
      ((mem_codes_iff_of_two_bits powerTable (by decide) mode).mpr mode.isLt)
    exact ⟨.setPowerMode _ _,
      buildSetPowerMode_eq_ok_iff.mpr ⟨mode, hp, c, resolveChannel_code_setWidth c hc, rfl⟩⟩
  | @clear mode =>
    have hp := resolveMode_code_setWidth clearTable (by decide) mode
      ((mem_codes_iff_of_two_bits clearTable (by decide) mode).mpr mode.isLt)
    exact ⟨.setClearCodeMode _, buildSetClearCodeMode_eq_ok_iff.mpr ⟨mode, hp, rfl⟩⟩
  | @ldac mode c hmode hc =>
    have hp := resolveMode_code_setWidth ldacTable (by decide) mode
      ((mem_codes_iff_of_one_bit ldacTable (by decide) mode).mpr hmode)
    exact ⟨.setLdacMode _ _,
      buildSetLdacMode_eq_ok_iff.mpr ⟨mode, hp, c, resolveChannel_code_setWidth c hc, rfl⟩⟩
  | reset => exact ⟨.reset, rfl⟩
  | @reference mode hmode =>
    have hp := resolveMode_code_setWidth refTable (by decide) mode
      ((mem_codes_iff_of_one_bit refTable (by decide) mode).mpr hmode)
    exact ⟨.setInternalReferenceMode _, buildSetInternalReferenceMode_eq_ok_iff.mpr ⟨mode, hp, rfl⟩⟩

/-! ### CMD -/

/-- Settles O10: every word built is a `Pack` whose CMD is the operation's opcode (R73). -/
theorem commandOpcodeIsFixed : Obligations.CommandOpcodeIsFixed := by
  refine ⟨fun m i w h => ?_, fun _ _ => rfl, fun _ => rfl, fun _ _ => rfl, fun _ _ => rfl, fun _ _ => rfl,
    fun _ => rfl, fun _ _ => rfl, rfl, fun _ => rfl⟩
  obtain ⟨addr, data, -, rfl⟩ := formatWord_of_buildWord h
  exact pack_cmd (opcode i) addr data

/-! ### The bits outside the fields -/

theorem FormatFields.addr_isChannelAddr {m : DeviceModel} {cmd addr : Nibble} {data : Payload}
    (h : FormatFields m cmd addr data) : isChannelAddr addr = true := by
  cases h with
  | write _ hc _ => exact hc
  | update hc => exact hc
  | _ => rfl

theorem FormatFields.addr_eq_zero {m : DeviceModel} {cmd addr : Nibble} {data : Payload}
    (h : FormatFields m cmd addr data) (hcmd : 4 ≤ cmd.toNat) : addr = 0 := by
  cases h with
  | write hwrite _ _ =>
    have hsmall : ∀ c ∈ [0x0#4, 0x2#4, 0x3#4], c.toNat < 4 := by decide
    exact absurd hcmd (Nat.not_le.mpr (hsmall cmd hwrite))
  | update _ => exact absurd hcmd (by decide)
  | _ => rfl

/-- The field of format W is DATA from bit SHIFT up. -/
theorem dataFields_of_write (dw : DataWidth) :
    ∀ cmd ∈ [0x0#4, 0x2#4, 0x3#4],
      Safety.dataFields dw cmd.toNat = BitVec.allOnes 20 <<< (20 - dw.bits) := by
  cases dw <;> decide

theorem FormatFields.data_and_not_dataFields {m : DeviceModel} {cmd addr : Nibble} {data : Payload}
    (h : FormatFields m cmd addr data) : data &&& ~~~ Safety.dataFields m.dataWidth cmd.toNat = 0 := by
  cases h with
  | write hcmd _ _ =>
    rw [dataFields_of_write _ _ hcmd]
    exact shiftLeft_and_not_allOnes_shiftLeft _ _
  | update _ => exact BitVec.zero_and
  | @power mode c hc =>
    have hall : ∀ (mode : BitVec 2) (c : Nibble), isChannelAddr c = true →
      ((mode.setWidth 20 <<< 8) ||| channelBit c) &&& ~~~ 0x083FF#20 = 0 := by decide
    exact hall mode c hc
  | @clear mode =>
    have hall : ∀ mode : BitVec 2, mode.setWidth 20 &&& ~~~ 0x00003#20 = 0 := by decide
    exact hall mode
  | @ldac mode c hmode hc =>
    have hall : ∀ (mode : BitVec 2) (c : Nibble), mode.toNat < 2 → isChannelAddr c = true →
      mode.setWidth 20 <<< c.toNat &&& ~~~ 0x080FF#20 = 0 := by decide
    exact hall mode c hmode hc
  | reset => exact BitVec.zero_and
  | @reference mode hmode =>
    have hall : ∀ mode : BitVec 2, mode.toNat < 2 → mode.setWidth 20 &&& ~~~ 0x00001#20 = 0 := by decide
    exact hall mode hmode

/-- Settles O11: each part is read off the fields of the word's format (R89). -/
theorem unusedBitsOfEveryWordAreZero : Obligations.UnusedBitsOfEveryWordAreZero := by
  intro m i w h
  obtain ⟨addr, data, hfields, rfl⟩ := formatWord_of_buildWord h
  have haddr := (isChannelAddr_iff addr).mp hfields.addr_isChannelAddr
  rw [pack_pad, pack_cmd, pack_addr, pack_data]
  exact ⟨rfl, by omega, hfields.addr_eq_zero, hfields.data_and_not_dataFields⟩

end Sys2Proof.Machine
end

