-- ==== Sys2Proof/Proofs/LegalWords.lean ====
section
/-! `LegalWord` (R92) against the words the block builds and against the decoder. -/

namespace Sys2Proof.Machine

/-! ### A word of a format is legal -/

theorem legalWord_pack (dw : DataWidth) (cmd addr : Nibble) (data : Payload) :
    legalWord dw (pack cmd addr data) = legalFormat dw (pack cmd addr data) cmd := by
  simp [legalWord]

theorem legalFormat_of_write {dw : DataWidth} {w : Word} {cmd : Nibble} (h : cmd ∈ [0x0#4, 0x2#4, 0x3#4]) :
    legalFormat dw w cmd = (addrIsChannel w && decide (w.extractLsb' 0 (20 - dw.bits) = 0)) := by
  simp only [List.mem_cons, List.not_mem_nil, or_false] at h
  obtain rfl | rfl | rfl := h
  · rfl
  · rfl
  · rfl

theorem legalWord_of_formatFields {m : DeviceModel} {cmd addr : Nibble} {data : Payload}
    (h : FormatFields m cmd addr data) : legalWord m.dataWidth (pack cmd addr data) = true := by
  rw [legalWord_pack]
  cases h with
  | write hcmd hc _ =>
    simp [legalFormat_of_write hcmd, addrIsChannel, hc, pack_low_bits _ _ _ (Nat.sub_le 20 _), alignValue, shiftOf,
      extractLsb'_shiftLeft_low]
  | update hc => simp [legalFormat, addrIsChannel, hc]
  | @power mode c hc =>
    have hall : ∀ (mode : BitVec 2) (c : Nibble), isChannelAddr c = true →
      legalFormat .w12 (pack 0x4 0 ((mode.setWidth 20 <<< 8) ||| channelBit c)) 0x4 = true := by decide
    exact hall mode c hc
  | @clear mode =>
    have hall : ∀ mode : BitVec 2, legalFormat .w12 (pack 0x5 0 (mode.setWidth 20)) 0x5 = true := by decide
    exact hall mode
  | @ldac mode c hmode hc =>
    have hall : ∀ (mode : BitVec 2) (c : Nibble), mode.toNat < 2 → isChannelAddr c = true →
      legalFormat .w12 (pack 0x6 0 (mode.setWidth 20 <<< c.toNat)) 0x6 = true := by decide
    exact hall mode c hmode hc
  | reset => rfl
  | @reference mode hmode =>
    have hall : ∀ mode : BitVec 2, mode.toNat < 2 →
      legalFormat .w12 (pack 0x8 0 (mode.setWidth 20)) 0x8 = true := by decide
    exact hall mode hmode

/-! ### A legal word is of a format -/

theorem formatFields_write_of_legal {m : DeviceModel} {w : Word} {cmd : Nibble}
    (hcmd : cmd ∈ [0x0#4, 0x2#4, 0x3#4]) (haddr : addrIsChannel w = true)
    (hlow : w.extractLsb' 0 (20 - m.dataWidth.bits) = 0) :
    FormatFields m cmd (w.extractLsb' 20 4) (w.extractLsb' 0 20) := by
  rw [← BitVec.extractLsb'_extractLsb'_of_le (len' := 20) (by omega)] at hlow
  obtain ⟨v, hv, hdata⟩ := exists_alignValue_eq hlow
  rw [← hdata]
  exact .write hcmd haddr hv

theorem formatFields_power_of_legal {m : DeviceModel} {w : Word} (hhigh : w.extractLsb' 16 8 = 0)
    (hmid : w.extractLsb' 10 5 = 0) (hcount : channelBitCount w = 1) :
    FormatFields m 0x4 0 (w.extractLsb' 0 20) := by
  obtain ⟨j, hj, hbits⟩ := exists_twoPow_of_channelBitCount hcount
  rw [data_eq_maskData hhigh hmid, hbits, maskData_twoPow j hj]
  exact .power (isChannelAddr_channelOfBit j hj)

theorem formatFields_ldac_of_legal {m : DeviceModel} {w : Word} (hhigh : w.extractLsb' 16 8 = 0)
    (hmid : w.extractLsb' 8 7 = 0) (hcount : channelBitCount w ≤ 1) :
    FormatFields m 0x6 0 (w.extractLsb' 0 20) := by
  have hmode : w.extractLsb' 8 2 = 0 := extractLsb'_eq_zero_of_le hmid (by decide) (by decide)
  rw [data_eq_maskData hhigh (extractLsb'_eq_zero_of_le hmid (by decide) (by decide)), hmode]
  obtain hnone | hone := Nat.le_one_iff_eq_zero_or_eq_one.mp hcount
  · rw [channelBits_eq_zero_of_channelBitCount hnone]
    exact .ldac (mode := 0) (c := 0) (by decide) (by decide)
  · obtain ⟨j, hj, hbits⟩ := exists_twoPow_of_channelBitCount hone
    rw [hbits, maskData_zero_twoPow j hj]
    exact .ldac (by decide) (isChannelAddr_channelOfBit j hj)

theorem formatFields_reference_of_legal {m : DeviceModel} {w : Word} (h : w.extractLsb' 1 23 = 0) :
    FormatFields m 0x8 0 (w.extractLsb' 0 20) := by
  have hbit : ∀ b : BitVec 1, b.setWidth 20 = (b.setWidth 2).setWidth 20 ∧ (b.setWidth 2).toNat < 2 := by decide
  obtain ⟨hwide, hlt⟩ := hbit (w.extractLsb' 0 1)
  rw [data_eq_setWidth (n := 1) h, hwide]
  exact .reference hlt

theorem formatFields_of_legalFormat {m : DeviceModel} {w : Word} {cmd : Nibble}
    (h : legalFormat m.dataWidth w cmd = true) :
    FormatFields m cmd (w.extractLsb' 20 4) (w.extractLsb' 0 20) := by
  have haddr : ∀ {n}, n ≤ 20 → w.extractLsb' n (24 - n) = 0 → w.extractLsb' 20 4 = 0 := fun hn hlow =>
    extractLsb'_eq_zero_of_le hlow hn (by omega)
  unfold legalFormat at h
  split at h <;> simp only [Bool.and_eq_true, decide_eq_true_eq, Bool.false_eq_true] at h
  case h_1 | h_3 | h_4 => exact formatFields_write_of_legal (by decide) h.1 h.2
  case h_2 =>
    obtain ⟨hchan, hdata⟩ := h
    rw [hdata]
    exact .update hchan
  case h_5 =>
    obtain ⟨⟨hhigh, hmid⟩, hcount⟩ := h
    rw [haddr (n := 16) (by decide) hhigh]
    exact formatFields_power_of_legal hhigh hmid hcount
  case h_6 =>
    rw [haddr (n := 2) (by decide) h, data_eq_setWidth (n := 2) h]
    exact .clear
  case h_7 =>
    obtain ⟨⟨hhigh, hmid⟩, hcount⟩ := h
    rw [haddr (n := 16) (by decide) hhigh]
    exact formatFields_ldac_of_legal hhigh hmid hcount
  case h_8 =>
    rw [haddr (n := 0) (by decide) h, extractLsb'_eq_zero_of_le h (by decide) (by decide)]
    exact .reset
  case h_9 =>
    rw [haddr (n := 1) (by decide) h]
    exact formatFields_reference_of_legal h

/-- Settles O8: a legal word is the `Pack` of fields of its format, which some operation builds; and what an operation
builds is of its format, so legal (R92). -/
theorem producedWordsAreExactlyTheLegalWords : Obligations.ProducedWordsAreExactlyTheLegalWords := by
  refine fun m w => ⟨fun h => ?_, fun ⟨i, hi⟩ => ?_⟩
  · obtain ⟨hpad, hformat⟩ := Bool.and_eq_true_iff.mp h
    rw [← pack_fields (of_decide_eq_true hpad)]
    exact exists_buildWord_of_formatFields (formatFields_of_legalFormat hformat)
  · obtain ⟨addr, data, hfields, rfl⟩ := formatWord_of_buildWord hi
    exact legalWord_of_formatFields hfields

/-! ### When each decoder answers -/

/-- A guarded decoder answers exactly when its guard holds and the rest answers. -/
theorem exists_ite_eq_ok_iff {ε α : Type} {p : Prop} [Decidable p] {x : Except ε α} {e : ε} :
    (∃ a, (if p then x else .error e) = .ok a) ↔ p ∧ ∃ a, x = .ok a := by
  by_cases hp : p
  · simp [hp]
  · simp [hp]

theorem exists_ite_ok_eq_ok_iff {ε α : Type} {p : Prop} [Decidable p] {a : α} {e : ε} :
    (∃ b, (if p then .ok a else .error e : Except ε α) = .ok b) ↔ p :=
  exists_ite_eq_ok_iff.trans ⟨And.left, fun hp => ⟨hp, a, rfl⟩⟩

theorem exists_decodeAddr_iff (w : Word) : (∃ c, decodeAddr w = .ok c) ↔ addrIsChannel w = true :=
  exists_ite_ok_eq_ok_iff.trans (by rw [addrIsChannel, isChannelAddr_iff])

theorem exists_decodeValue_iff (dw : DataWidth) (w : Word) :
    (∃ v, decodeValue dw w = .ok v) ↔ w.extractLsb' 0 (20 - dw.bits) = 0 := by
  cases dw <;> exact exists_ite_ok_eq_ok_iff

theorem exists_decodeW_iff (dw : DataWidth) (w : Word) (mk : Sel → BitVec 16 → Instr) :
    (∃ i, decodeW dw w mk = .ok i) ↔ addrIsChannel w = true ∧ w.extractLsb' 0 (20 - dw.bits) = 0 := by
  rw [← exists_decodeAddr_iff, ← exists_decodeValue_iff]
  cases haddr : decodeAddr w with
  | error e => simp [decodeW, haddr]
  | ok chan => cases hvalue : decodeValue dw w <;> simp [decodeW, haddr, hvalue]

theorem exists_decodeU_iff (w : Word) :
    (∃ i, decodeU w = .ok i) ↔ addrIsChannel w = true ∧ w.extractLsb' 0 20 = 0 := by
  rw [← exists_decodeAddr_iff]
  cases haddr : decodeAddr w with
  | error e => simp [decodeU, haddr]
  | ok chan => simp only [decodeU, haddr, exists_ite_ok_eq_ok_iff, Except.ok.injEq, exists_eq', true_and]

theorem decodeChannelBits_eq_none_iff (b : BitVec 9) : decodeChannelBits b = .ok none ↔ b.cpop.toNat = 0 := by
  refine ⟨fun h => ?_, fun h => by rw [(toNat_cpop_eq_zero_iff b).mp h]; rfl⟩
  unfold decodeChannelBits at h
  split at h
  case h_1 => rfl
  all_goals cases h

theorem exists_decodeChannelBits_eq_some_iff (b : BitVec 9) :
    (∃ c, decodeChannelBits b = .ok (some c)) ↔ b.cpop.toNat = 1 := by
  refine ⟨fun ⟨c, h⟩ => ?_, fun h => ?_⟩
  · unfold decodeChannelBits at h
    split at h
    case h_1 | h_11 => cases h
    all_goals rfl
  · have hsingle : ∀ j < 9, decodeChannelBits (BitVec.twoPow 9 j) = .ok (some ((channelOfBit j).setWidth 8)) := by
      decide
    obtain ⟨j, hj, rfl⟩ := eq_twoPow_of_toNat_cpop h
    exact ⟨_, hsingle j hj⟩

theorem exists_decodeP_iff (w : Word) : (∃ i, decodeP w = .ok i) ↔
    (w.extractLsb' 16 8 = 0 ∧ w.extractLsb' 10 5 = 0) ∧ channelBitCount w = 1 := by
  rw [channelBitCount_eq_cpop, ← exists_decodeChannelBits_eq_some_iff]
  refine exists_ite_eq_ok_iff.trans (and_congr_right fun _ => ?_)
  cases decodeChannelBits (channelBits w) with
  | error e => simp
  | ok c => cases c <;> simp

theorem exists_decodeL_iff (w : Word) : (∃ i, decodeL w = .ok i) ↔
    (w.extractLsb' 16 8 = 0 ∧ w.extractLsb' 8 7 = 0) ∧ channelBitCount w ≤ 1 := by
  rw [Nat.le_one_iff_eq_zero_or_eq_one, channelBitCount_eq_cpop, ← exists_decodeChannelBits_eq_some_iff,
    ← decodeChannelBits_eq_none_iff]
  refine exists_ite_eq_ok_iff.trans (and_congr_right fun _ => ?_)
  cases decodeChannelBits (channelBits w) with
  | error e => simp
  | ok c => cases c <;> simp

theorem exists_decodeC_iff (w : Word) : (∃ i, decodeC w = .ok i) ↔ w.extractLsb' 2 22 = 0 :=
  exists_ite_ok_eq_ok_iff

theorem exists_decodeR_iff (w : Word) : (∃ i, decodeR w = .ok i) ↔ w.extractLsb' 0 24 = 0 :=
  exists_ite_ok_eq_ok_iff

theorem exists_decodeI_iff (w : Word) : (∃ i, decodeI w = .ok i) ↔ w.extractLsb' 1 23 = 0 :=
  exists_ite_ok_eq_ok_iff

/-- For each command opcode the decoder of its format answers exactly under the condition of R92. -/
theorem exists_decodeFormat_iff (dw : DataWidth) (w : Word) (cmd : Nibble) :
    (∃ i, decodeFormat dw w cmd = .ok i) ↔ legalFormat dw w cmd = true := by
  unfold decodeFormat legalFormat
  split <;> simp only [exists_decodeW_iff, exists_decodeU_iff, exists_decodeP_iff, exists_decodeC_iff,
    exists_decodeL_iff, exists_decodeR_iff, exists_decodeI_iff, Bool.and_eq_true, decide_eq_true_eq, reduceCtorEq,
    exists_false, Bool.false_eq_true]

/-- Settles O7: the decoder's guards, format by format, are the conditions of `LegalWord` (R92). -/
theorem decoderAcceptsExactlyTheLegalWords : Obligations.DecoderAcceptsExactlyTheLegalWords := by
  intro dw w
  rw [legalWord, Bool.and_eq_true, decide_eq_true_eq, ← exists_decodeFormat_iff]
  exact exists_ite_eq_ok_iff.symm

end Sys2Proof.Machine
end

