-- ==== Sys2Proof/Proofs/Outcomes.lean ====
section
/-! The two ends of an operation on an idle block, in the terms claims are stated in: a word sent (R85), or a
validation error (R152). -/

namespace Sys2Proof.Machine

open Sys2Proof.Safety

/-- The frame's last part is one transmit of the word, with every field claims speak of accounted for. -/
theorem transmitted_transmitRequest (w : Word) (s : State) : Transmitted s (transmitRequest w s) w where
  txLog := transmitRequest_txLog w s
  status := transmitRequest_status w s
  statusLog := transmitRequest_statusLog w s
  phase := transmitRequest_phase w s
  k := transmitRequest_k w s
  draws := transmitRequest_draws w s
  cfg := transmitRequest_cfg w s
  program := transmitRequest_program w s
  resets := transmitRequest_resets w s

theorem exists_transmitted_of_buildWord_ok {i : Instr} {s : State} {w : Word} (hidle : s.phase = .idle)
    (hbuild : buildWord s.cfg i = .ok w) : ∃ t, exec i s = .next t ∧ Transmitted s t w :=
  ⟨_, exec_of_buildWord_ok hidle hbuild, transmitted_transmitRequest w s⟩

theorem exists_rejected_of_buildWord_error {i : Instr} {s : State} {e : Status} (hidle : s.phase = .idle)
    (hbuild : buildWord s.cfg i = .error e) : ∃ t, exec i s = .next t ∧ Rejected s t e :=
  ⟨_, exec_of_buildWord_error hidle hbuild, rejectRequest_eq e s⟩

end Sys2Proof.Machine
end

