-- ==== Sys2Proof/Proofs/DataCommands.lean ====
section
/-! The data commands (R100 to R102): the words they build as the spec's property formulas write them, and which check
fails first. -/

namespace Sys2Proof.Machine

open Sys2Proof.Safety

/-! ### The words as formulas -/

/-- PAD is 0, so it drops out of the OR of R71. -/
theorem pack_eq_or (cmd addr : Nibble) (data : Payload) :
    pack cmd addr data = (cmd.setWidth 32 <<< 24) ||| (addr.setWidth 32 <<< 20) ||| data.setWidth 32 := by
  simp [pack]

theorem pack_zero_data (cmd addr : Nibble) :
    pack cmd addr 0 = (cmd.setWidth 32 <<< 24) ||| (addr.setWidth 32 <<< 20) := by
  simp [pack_eq_or]

theorem bits_le_twenty (dw : DataWidth) : dw.bits ≤ 20 := by
  cases dw <;> decide

/-- A checked value shifted by `SHIFT` ends below bit 20 (R104). -/
theorem mul_two_pow_shift_lt {dw : DataWidth} {v : BitVec 16} (hv : v.toNat < 2 ^ dw.bits) :
    v.toNat * 2 ^ (20 - dw.bits) < 2 ^ 20 :=
  calc v.toNat * 2 ^ (20 - dw.bits)
      < 2 ^ dw.bits * 2 ^ (20 - dw.bits) := Nat.mul_lt_mul_of_pos_right hv (by positivity)
    _ = 2 ^ 20 := by rw [← Nat.pow_add, Nat.add_sub_cancel' (bits_le_twenty dw)]

/-- Aligning a checked value within DATA and shifting it within the word agree, since nothing is shifted out (R82). -/
theorem setWidth_alignValue {m : DeviceModel} {v : BitVec 16} (hv : v.toNat < 2 ^ m.dataWidth.bits) :
    (alignValue m v).setWidth 32 = v.setWidth 32 <<< (20 - m.dataWidth.bits) := by
  have hfits := mul_two_pow_shift_lt hv
  apply BitVec.eq_of_toNat_eq
  simp (disch := omega) only [alignValue, shiftOf, BitVec.toNat_setWidth, BitVec.toNat_shiftLeft, Nat.shiftLeft_eq,
    Nat.mod_eq_of_lt]

/-! ### What the checks and `Build` answer -/

theorem resolveChannel_of_forall_ne_ok {chan : Sel} (h : ∀ c, resolveChannel chan ≠ .ok c) :
    resolveChannel chan = .error .invalidChannel := by
  cases hchan : resolveChannel chan with
  | error e => rw [resolveChannel_error hchan]
  | ok c => exact absurd hchan (h c)

theorem checkValue_of_le {m : DeviceModel} {v : BitVec 16} (h : 2 ^ m.dataWidth.bits ≤ v.toNat) :
    checkValue m v = .error .invalidValue :=
  if_neg (Nat.not_lt.mpr h)

theorem buildWrite_of_valid {cmd : Nibble} {m : DeviceModel} {chan : Sel} {value : BitVec 16} {c : Nibble}
    (hc : resolveChannel chan = .ok c) (hv : value.toNat < 2 ^ m.dataWidth.bits) :
    buildWrite cmd m chan value = .ok ((cmd.setWidth 32 <<< 24) ||| (c.setWidth 32 <<< 20) |||
      (value.setWidth 32 <<< (20 - m.dataWidth.bits))) :=
  buildWrite_eq_ok_iff.mpr ⟨c, hc, hv, by rw [pack_eq_or, setWidth_alignValue hv]⟩

theorem buildWrite_of_invalidValue {cmd : Nibble} {m : DeviceModel} {chan : Sel} {value : BitVec 16} {c : Nibble}
    (hc : resolveChannel chan = .ok c) (hv : 2 ^ m.dataWidth.bits ≤ value.toNat) :
    buildWrite cmd m chan value = .error .invalidValue := by
  rw [buildWrite, hc, checkValue_of_le hv]
  rfl

/-- The channel is checked first, so the value does not matter (R85). -/
theorem buildWrite_of_invalidChannel {cmd : Nibble} {m : DeviceModel} {chan : Sel} {value : BitVec 16}
    (h : ∀ c, resolveChannel chan ≠ .ok c) : buildWrite cmd m chan value = .error .invalidChannel := by
  rw [buildWrite, resolveChannel_of_forall_ne_ok h]
  rfl

theorem buildUpdateDacRegister_of_valid {chan : Sel} {c : Nibble} (hc : resolveChannel chan = .ok c) :
    buildUpdateDacRegister chan = .ok ((0x1#32 <<< 24) ||| (c.setWidth 32 <<< 20)) :=
  buildUpdateDacRegister_eq_ok_iff.mpr ⟨c, hc, pack_zero_data 0x1 c⟩

theorem buildUpdateDacRegister_of_invalidChannel {chan : Sel} (h : ∀ c, resolveChannel chan ≠ .ok c) :
    buildUpdateDacRegister chan = .error .invalidChannel := by
  rw [buildUpdateDacRegister, resolveChannel_of_forall_ne_ok h]
  rfl

/-! ### The operations -/

/-- Every operation whose checks and word are the shared ones of R100, R102 and R103 sends its shifted value, or ends
with the status of the first check that fails. -/
theorem sendsShiftedValue_of_buildWrite {cmd : Nibble} {op : Sel → BitVec 16 → Instr}
    (hbuild : ∀ m chan value, buildWord m (op chan value) = buildWrite cmd m chan value)
    (chan : Sel) (value : BitVec 16) (s : State) (hidle : s.phase = .idle) :
    (∀ c, resolveChannel chan = .ok c → value.toNat < 2 ^ s.cfg.dataWidth.bits →
      ∃ t, exec (op chan value) s = .next t ∧ Transmitted s t ((cmd.setWidth 32 <<< 24) |||
        (c.setWidth 32 <<< 20) ||| (value.setWidth 32 <<< (20 - s.cfg.dataWidth.bits)))) ∧
    (∀ c, resolveChannel chan = .ok c → 2 ^ s.cfg.dataWidth.bits ≤ value.toNat →
      ∃ t, exec (op chan value) s = .next t ∧ Rejected s t .invalidValue) ∧
    ((∀ c, resolveChannel chan ≠ .ok c) →
      ∃ t, exec (op chan value) s = .next t ∧ Rejected s t .invalidChannel) :=
  ⟨fun _ hc hv => exists_transmitted_of_buildWord_ok hidle ((hbuild ..).trans (buildWrite_of_valid hc hv)),
    fun _ hc hv => exists_rejected_of_buildWord_error hidle ((hbuild ..).trans (buildWrite_of_invalidValue hc hv)),
    fun h => exists_rejected_of_buildWord_error hidle ((hbuild ..).trans (buildWrite_of_invalidChannel h))⟩

/-- Settles O23: the shared checks and `Build` of the value-carrying commands, at opcode 0x0 (R100). -/
theorem writeInputRegisterSendsShiftedValue : Obligations.WriteInputRegisterSendsShiftedValue :=
  sendsShiftedValue_of_buildWrite (cmd := 0x0) fun _ _ _ => rfl

/-- Settles O24: with DATA 0 the word is opcode and channel alone, and the channel is the only check (R101). -/
theorem updateDacRegisterSendsChannel : Obligations.UpdateDacRegisterSendsChannel :=
  fun _ _ hidle =>
    ⟨fun _ hc => exists_transmitted_of_buildWord_ok hidle (buildUpdateDacRegister_of_valid hc),
      fun h => exists_rejected_of_buildWord_error hidle (buildUpdateDacRegister_of_invalidChannel h)⟩

/-- Settles O25: the shared checks and `Build` of the value-carrying commands, at opcode 0x2 (R102). -/
theorem writeInputRegisterUpdateAllSendsShiftedValue : Obligations.WriteInputRegisterUpdateAllSendsShiftedValue :=
  sendsShiftedValue_of_buildWrite (cmd := 0x2) fun _ _ _ => rfl

end Sys2Proof.Machine
end

