-- ==== Sys2Proof/Proofs/ControlCommands.lean ====
section
/-! The control commands (R120 to R126): how many channel bits their words set, the words of the commands whose one
operand is a mode, and the one word of `reset`. -/

namespace Sys2Proof.Machine

open Sys2Proof.Safety

/-! ### The channel bits of the words built -/

/-- The mode of format P lies in DATA[9:8], outside the channel bits, so only the channel's own bit counts (R74). -/
theorem channelBitCount_pack_power : ∀ (p : BitVec 2) (c : Nibble), isChannelAddr c = true →
    channelBitCount (pack 0x4 0 ((p.setWidth 20 <<< 8) ||| channelBit c)) = 1 := by
  decide

/-- The mode of format L is itself the channel bit (R74). -/
theorem channelBitCount_pack_ldac : ∀ (p : BitVec 2) (c : Nibble), p.toNat < 2 → isChannelAddr c = true →
    channelBitCount (pack 0x6 0 (p.setWidth 20 <<< c.toNat)) = if p = 0 then 0 else 1 := by
  decide

/-- Settles O12: the channel resolves to one channel address, and the word's format shifts one bit to it: the constant
1 in a power-down word, the mode in an LDAC word (R121). -/
theorem oneChannelBitPerWord : Obligations.OneChannelBitPerWord := by
  refine ⟨fun m mode chan w h => ?_, fun m mode chan w h => ?_⟩
  · obtain ⟨p, -, c, hc, rfl⟩ := buildSetPowerMode_eq_ok_iff.mp h
    exact channelBitCount_pack_power p c (isChannelAddr_of_resolveChannel hc)
  · obtain ⟨p, hp, c, hc, rfl⟩ := buildSetLdacMode_eq_ok_iff.mp h
    rw [channelBitCount_pack_ldac p c (toNat_lt_two_of_resolveMode (by decide) hp)
      (isChannelAddr_of_resolveChannel hc), hp]
    simp only [Except.ok.injEq]

/-! ### The commands whose one operand is a mode -/

/-- The checks and `Build` that R122 and R126 share: the mode against `table`, then its code alone in DATA. -/
def buildModeCode (cmd : Nibble) (table : List (String × BitVec 2)) (mode : Sel) : Except Status Word := do
  let p ← resolveMode table mode
  return pack cmd 0 (p.setWidth 20)

theorem buildWord_setClearCodeMode (m : DeviceModel) (mode : Sel) :
    buildWord m (.setClearCodeMode mode) = buildModeCode 0x5 clearTable mode := rfl

theorem buildWord_setInternalReferenceMode (m : DeviceModel) (mode : Sel) :
    buildWord m (.setInternalReferenceMode mode) = buildModeCode 0x8 refTable mode := rfl

theorem resolveMode_of_forall_ne_ok {table : List (String × BitVec 2)} {mode : Sel}
    (h : ∀ p, resolveMode table mode ≠ .ok p) : resolveMode table mode = .error .invalidMode := by
  cases hmode : resolveMode table mode with
  | error e => rw [resolveMode_error hmode]
  | ok p => exact absurd hmode (h p)

/-- PAD and ADDR are 0, so they drop out of the OR of R71. -/
theorem pack_mode (cmd : Nibble) (p : BitVec 2) :
    pack cmd 0 (p.setWidth 20) = (cmd.setWidth 32 <<< 24) ||| p.setWidth 32 := by
  simp [pack_eq_or]

theorem buildModeCode_of_valid {cmd : Nibble} {table : List (String × BitVec 2)} {mode : Sel} {p : BitVec 2}
    (hp : resolveMode table mode = .ok p) :
    buildModeCode cmd table mode = .ok ((cmd.setWidth 32 <<< 24) ||| p.setWidth 32) := by
  rw [buildModeCode, hp, ← pack_mode]
  rfl

theorem buildModeCode_of_invalidMode {cmd : Nibble} {table : List (String × BitVec 2)} {mode : Sel}
    (h : ∀ p, resolveMode table mode ≠ .ok p) : buildModeCode cmd table mode = .error .invalidMode := by
  rw [buildModeCode, resolveMode_of_forall_ne_ok h]
  rfl

/-! ### The operations -/

/-- Every operation whose checks and word are the shared ones of R122 and R126 sends its mode code, or ends with
InvalidMode. -/
theorem sendsModeCode_of_buildModeCode {cmd : Nibble} {table : List (String × BitVec 2)} {op : Sel → Instr}
    (hbuild : ∀ m mode, buildWord m (op mode) = buildModeCode cmd table mode)
    (mode : Sel) (s : State) (hidle : s.phase = .idle) :
    (∀ p, resolveMode table mode = .ok p →
      ∃ t, exec (op mode) s = .next t ∧ Transmitted s t ((cmd.setWidth 32 <<< 24) ||| p.setWidth 32)) ∧
    ((∀ p, resolveMode table mode ≠ .ok p) →
      ∃ t, exec (op mode) s = .next t ∧ Rejected s t .invalidMode) :=
  ⟨fun _ hp => exists_transmitted_of_buildWord_ok hidle ((hbuild ..).trans (buildModeCode_of_valid hp)),
    fun h => exists_rejected_of_buildWord_error hidle ((hbuild ..).trans (buildModeCode_of_invalidMode h))⟩

/-- Settles O28: the shared check and `Build` of the mode commands, at opcode 0x5 with CLEAR (R122). -/
theorem setClearCodeModeSendsMode : Obligations.SetClearCodeModeSendsMode :=
  sendsModeCode_of_buildModeCode (cmd := 0x5) buildWord_setClearCodeMode

/-- Settles O31: the shared check and `Build` of the mode commands, at opcode 0x8 with REF (R126). -/
theorem setInternalReferenceModeSendsEnable : Obligations.SetInternalReferenceModeSendsEnable :=
  sendsModeCode_of_buildModeCode (cmd := 0x8) buildWord_setInternalReferenceMode

theorem buildWord_reset (m : DeviceModel) : buildWord m .reset = .ok 0x07000000 := rfl

/-- Settles O30: `reset` has no check and no operand, so its word is one constant (R124). -/
theorem resetCommandSendsFixedWord : Obligations.ResetCommandSendsFixedWord :=
  fun s hidle => ⟨rfl, exists_transmitted_of_buildWord_ok hidle (buildWord_reset s.cfg)⟩

end Sys2Proof.Machine
end

