-- ==== Sys2Proof/Proofs/Exceptions.lean ====
section
/-! How STATUS tells a request that was rejected from one that was transmitted (R152, R153). -/

namespace Sys2Proof.Machine

open Sys2Proof.Safety

/-- The transport's answers give OK and TransportFailure only (R85, R153). -/
theorem statusOfOutcome_notMem_validationErrors (o : TransportOutcome) : statusOfOutcome o ∉ validationErrors := by
  cases o <;> decide

/-- A run of the frame that ends with a validation error stopped at its checks. -/
theorem rejected_of_runRequest {checked : Except Status Word} {s t : State} (hrun : runRequest checked s = .next t)
    (hstatus : t.status ∈ validationErrors) : Rejected s t t.status := by
  obtain ⟨-, ⟨e, -, rfl⟩ | ⟨w, -, rfl⟩⟩ := runRequest_next hrun
  · exact rejectRequest_eq e s
  · rw [transmitRequest_status] at hstatus
    exact absurd hstatus (statusOfOutcome_notMem_validationErrors s.nextOutcome)

/-- Settles O34: a presented request, its op select valid or not, is one run of the frame, and a run that transmits
ends with a status of the transport's. -/
theorem validationErrorSendsNothing : Obligations.ValidationErrorSendsNothing := by
  intro s t r hnext hpresent hstatus
  rw [presentRequest_some hnext] at hpresent
  exact rejected_of_runRequest hpresent hstatus

end Sys2Proof.Machine
end

