-- ==== Sys2Proof/Proofs/Construction.lean ====
section
/-! Construction: a legal table names each row once, so the lookup finds an identifier's own row (R180). -/

namespace Sys2Proof.Machine

/-- Where no identifier repeats, a lookup finds every row; with repeats it would find only the first of them. -/
theorem lookup_eq_some_of_mem {α : Type} {table : List (String × α)} {s : String} {a : α}
    (hnodup : (table.map Prod.fst).Nodup) (h : (s, a) ∈ table) : table.lookup s = some a := by
  cases hlookup : table.lookup s with
  | none => exact absurd rfl (bne_iff_ne.mp (List.lookup_eq_none_iff.mp hlookup _ h))
  | some a' =>
    have hrow : (s, a) = (s, a') := List.inj_on_of_nodup_map hnodup h (mem_of_lookup_eq_some hlookup) rfl
    cases hrow
    rfl

theorem nodup_of_legal {table : DeviceTable} (h : table.legal = true) : (table.map Prod.fst).Nodup := by
  simp only [DeviceTable.legal, Bool.and_eq_true, decide_eq_true_eq] at h
  obtain ⟨⟨-, hnodup⟩, -⟩ := h
  exact hnodup

theorem construct_of_mem {table : DeviceTable} {modelId : String} {m : DeviceModel} (hlegal : table.legal = true)
    (h : (modelId, m) ∈ table) : construct table modelId = .next (State.constructed m) := by
  rw [construct, lookup_eq_some_of_mem (nodup_of_legal hlegal) h]

theorem construct_of_notMem {table : DeviceTable} {modelId : String} (h : modelId ∉ table.map Prod.fst) :
    construct table modelId = .fault .unknownDeviceModel := by
  rw [construct, lookup_eq_none_of_notMem h]

/-- Settles O50: the lookup finds a named row and fails on any other identifier, and the row's configuration is all
that `State.constructed` takes from it (R180). -/
theorem constructionFollowsTheTable : Obligations.ConstructionFollowsTheTable :=
  fun _ _ hlegal =>
    ⟨fun m hm => ⟨State.constructed m, construct_of_mem hlegal hm, State.constructed_cfg m,
      State.constructed_phase m, State.constructed_status m, State.constructed_txLog m,
      State.constructed_statusLog m⟩, construct_of_notMem⟩

end Sys2Proof.Machine
end

