-- ==== Sys2Proof/Proofs/Delivery.lean ====
section
/-! What a failed transmit may have delivered (R57). -/

namespace Sys2Proof.Machine

/-- After `fail`, the bits delivered are the stream up to some point (R57). -/
theorem mayDeliver_fail_iff {b : WireBytes} {bits : List Bool} :
    mayDeliver { bytes := b, outcome := .fail } bits = true ↔ bits <+: wireBits b :=
  List.isPrefixOf_iff_prefix

/-- Settles O4: the bits delivered are as many of the stream of `wireBits_serialize` as there are of them (R57, D13). -/
theorem failedTransmitMayDeliverAnyPrefix : Obligations.FailedTransmitMayDeliverAnyPrefix := by
  intro w bits
  rw [mayDeliver_fail_iff, ← wireBits_serialize]
  constructor
  · intro hprefix
    have hlen : (wireBits (serialize w)).length = 32 := rfl
    exact ⟨bits.length, hlen ▸ hprefix.length_le, List.prefix_iff_eq_take.mp hprefix⟩
  · rintro ⟨n, -, rfl⟩
    exact List.take_prefix n _

end Sys2Proof.Machine
end

