-- ==== Sys2Proof/Proofs/Selectors.lean ====
section
/-! Names and codes of one selector build one word, and different names may (R75 to R80, R92). -/

namespace Sys2Proof.Machine

/-- Settles O16: each name is looked up in the channel table (R77, D6, D7). -/
theorem channelNamesInLetterOrder : Obligations.ChannelNamesInLetterOrder :=
  ⟨rfl, rfl, rfl⟩

/-- Settles O18: each name is looked up in its mode table (R79, D8, D9). -/
theorem modeNames : Obligations.ModeNames := by
  unfold Obligations.ModeNames
  decide

theorem resolveChannel_name_eq_code {s : String} {c : Nibble} (h : (s, c) ∈ channelTable) :
    resolveChannel (.name s) = resolveChannel (.code (c.setWidth 8)) := by
  have hname := resolveChannel_name_of_mem (s, c) h
  rw [hname, resolveChannel_code_setWidth c (isChannelAddr_of_resolveChannel hname)]

theorem resolveMode_name_eq_code {table : List (String × BitVec 2)}
    (htable : table ∈ [powerTable, clearTable, ldacTable, refTable]) {s : String} {p : BitVec 2} (h : (s, p) ∈ table) :
    resolveMode table (.name s) = resolveMode table (.code (p.setWidth 8)) := by
  rw [resolveMode_name_of_mem table htable (s, p) h,
    resolveMode_code_setWidth table htable p (List.mem_map_of_mem h)]

/-- Settles O19: `Build` reads a selector only through what it resolves to, which is the same for a name and its code
(R75); a boolean is its code by definition (D8). -/
theorem nameAndCodeBuildTheSameWord : Obligations.NameAndCodeBuildTheSameWord := by
  refine ⟨fun s c h m v mode => ?_, fun s p m chan => ⟨fun h => ?_, fun h => ?_, fun h => ?_, fun h => ?_⟩,
    fun b => ?_⟩
  · have hchan := resolveChannel_name_eq_code h
    simp only [buildWord, buildWriteInputRegister, buildWriteInputRegisterUpdateAll, buildWriteAndUpdateChannel,
      buildWrite, buildUpdateDacRegister, buildSetPowerMode, buildSetLdacMode, hchan, and_self]
  · simp only [buildWord, buildSetPowerMode, resolveMode_name_eq_code (table := powerTable) (by decide) h]
  · simp only [buildWord, buildSetClearCodeMode, resolveMode_name_eq_code (table := clearTable) (by decide) h]
  · simp only [buildWord, buildSetLdacMode, resolveMode_name_eq_code (table := ldacTable) (by decide) h]
  · simp only [buildWord, buildSetInternalReferenceMode, resolveMode_name_eq_code (table := refTable) (by decide) h]
  · cases b <;> rfl

/-- Settles O58: NORMAL and NOP have one code in CLEAR (D9), and the mode code 0 of HW leaves no bit at any channel
(R92). -/
theorem encodingIsNotInjective : Obligations.EncodingIsNotInjective := by
  have hhw : ∀ c : Nibble, pack 0x6 0 ((0#2).setWidth 20 <<< c.toNat) = 0x06000000 := by decide
  exact ⟨fun _ => ⟨rfl, rfl⟩, fun _ _ c hc => buildSetLdacMode_eq_ok_iff.mpr ⟨0, rfl, c, hc, hhw c⟩⟩

end Sys2Proof.Machine
end

