-- ==== Sys2Proof/Proofs/Requests.lean ====
section
/-! The operation a request selects and the fields it reads (R83, R84), and calls as written (R86). -/

namespace Sys2Proof.Machine

open Sys2Proof.Safety

/-- The op decides which fields are read, and those agree (R84). -/
theorem decodeRequest_congr {r r' : Request} (h : AgreeOnRead r r') : decodeRequest r = decodeRequest r' := by
  obtain ⟨hop, hchan, hmode, hvalue⟩ := h
  unfold decodeRequest
  rw [← hop]
  split
  case h_1 hr | h_3 hr | h_4 hr => rw [hr] at hchan hvalue; rw [hchan rfl, hvalue rfl]
  case h_2 hr => rw [hr] at hchan; rw [hchan rfl]
  case h_5 hr | h_7 hr => rw [hr] at hmode hchan; rw [hmode rfl, hchan rfl]
  case h_6 hr | h_9 hr => rw [hr] at hmode; rw [hmode rfl]
  case h_8 | h_10 => rfl

/-- Settles O22: a request reaches `Build` only through the operation it decodes to (R84, D20). -/
theorem ignoredFieldsHaveNoEffect : Obligations.IgnoredFieldsHaveNoEffect := by
  intro m r r' h
  rw [buildRequest, buildRequest, decodeRequest_congr h]

theorem opcode_of_decodeRequest {r : Request} {i : Instr} (h : decodeRequest r = some i) : opcode i = r.op := by
  unfold decodeRequest at h
  split at h
  case h_10 => cases h
  all_goals
    cases h
    exact Eq.symm ‹_›

theorem exists_decodeRequest_iff (r : Request) : (∃ i, decodeRequest r = some i) ↔ r.op.toNat ≤ 8 := by
  unfold decodeRequest
  split
  case h_10 h0 h1 h2 h3 h4 h5 h6 h7 h8 =>
    have hall : ∀ op : Nibble, op ≠ 0 → op ≠ 1 → op ≠ 2 → op ≠ 3 → op ≠ 4 → op ≠ 5 → op ≠ 6 → op ≠ 7 → op ≠ 8 →
      ¬ op.toNat ≤ 8 := by decide
    simpa using hall r.op h0 h1 h2 h3 h4 h5 h6 h7 h8
  all_goals simp [*]

theorem decodeRequest_eq_none {r : Request} (h : 9 ≤ r.op.toNat) : decodeRequest r = none :=
  Option.eq_none_iff_forall_ne_some.mpr fun i hi =>
    absurd ((exists_decodeRequest_iff r).mp ⟨i, hi⟩) (Nat.not_le.mpr h)

/-- Settles O39: each of the nine op selects has its own branch in the decoder, and no other has one (R83, D12). -/
theorem opSelectEqualsOpcode : Obligations.OpSelectEqualsOpcode := by
  refine fun r => ⟨fun _ => opcode_of_decodeRequest, exists_decodeRequest_iff r, ?_⟩
  obtain ⟨op, chan, mode, value⟩ := r
  refine ⟨?_, ?_, ?_, ?_, ?_, ?_, ?_, ?_, ?_⟩ <;> rintro rfl <;> rfl

/-- Settles O14: the reader run on each of the five calls (R86, D7). -/
theorem callSyntaxExamplesRead : Obligations.CallSyntaxExamplesRead := by
  unfold Obligations.CallSyntaxExamplesRead
  decide

end Sys2Proof.Machine
end

