-- ==== Sys2Proof/Proofs/Encoding.lean ====
section
/-! The encoder, `Build` and the decoder agree: one word for each well-formed instruction, and one instruction for each
word that decodes (R74, R92). -/

namespace Sys2Proof.Machine

/-! ### The value in DATA -/

/-- Nothing of a checked value is shifted out (R82, R104). -/
theorem alignValue_toNat {m : DeviceModel} {v : BitVec 16} (hv : v.toNat < 2 ^ m.dataWidth.bits) :
    (alignValue m v).toNat = v.toNat * 2 ^ (20 - m.dataWidth.bits) := by
  have hfits := mul_two_pow_shift_lt hv
  simp (disch := omega) only [alignValue, shiftOf, BitVec.toNat_shiftLeft, BitVec.toNat_setWidth, Nat.shiftLeft_eq,
    Nat.mod_eq_of_lt]

/-- Settles O21: the check is the bound itself, and `dataWidth + SHIFT` is 20 (R82, R104). -/
theorem checkedValueNeverLeavesData : Obligations.CheckedValueNeverLeavesData :=
  fun _ _ => ⟨fun hv => ⟨checkValue_eq_ok_iff.mpr ⟨hv, rfl⟩, alignValue_toNat hv, mul_two_pow_shift_lt hv⟩,
    checkValue_of_le⟩

/-! ### Format W -/

@[simp] theorem addrField_setWidth (c : Nibble) : addrField (.code (c.setWidth 8)) = c := by
  simp [addrField]

/-- The table's pattern and `Pack` give the same sum of fields: a checked value is as wide as its field (R74, R82). -/
theorem encodeW_eq_pack {m : DeviceModel} {v : BitVec 16} (hv : v.toNat < 2 ^ m.dataWidth.bits) (cmd c : Nibble) :
    encodeW m.dataWidth cmd (.code (c.setWidth 8)) v = pack cmd c (alignValue m v) := by
  apply BitVec.eq_of_toNat_eq
  rw [pack_toNat, alignValue_toNat hv]
  cases hdw : m.dataWidth <;> rw [hdw] at hv <;>
    simp only [encodeW, addrField_setWidth, toNat_append_eq_add, BitVec.toNat_setWidth, BitVec.toNat_ofNat,
      DataWidth.bits] at hv ⊢ <;>
    omega

theorem decodeWord_pack (dw : DataWidth) (cmd addr : Nibble) (data : Payload) :
    decodeWord dw (pack cmd addr data) = decodeFormat dw (pack cmd addr data) cmd := by
  simp [decodeWord]

theorem decodeAddr_pack {c : Nibble} (hc : isChannelAddr c = true) (cmd : Nibble) (data : Payload) :
    decodeAddr (pack cmd c data) = .ok (.code (c.setWidth 8)) := by
  rw [decodeAddr, pack_addr]
  exact if_pos ((isChannelAddr_iff c).mp hc)

/-- The bits below the value are 0, and dividing by `2 ^ SHIFT` gives back the value that was shifted (R74, R92). -/
theorem decodeValue_pack_alignValue {m : DeviceModel} {v : BitVec 16} (hv : v.toNat < 2 ^ m.dataWidth.bits)
    (cmd c : Nibble) : decodeValue m.dataWidth (pack cmd c (alignValue m v)) = .ok v := by
  have hlow : (pack cmd c (alignValue m v)).extractLsb' 0 (20 - m.dataWidth.bits) = 0 := by
    rw [pack_low_bits _ _ _ (Nat.sub_le 20 _), alignValue, shiftOf]
    exact extractLsb'_shiftLeft_low _ _
  have hword := pack_toNat cmd c (alignValue m v)
  rw [alignValue_toNat hv] at hword
  cases hdw : m.dataWidth <;> rw [hdw] at hv hlow hword <;>
    refine (if_pos hlow).trans (congrArg Except.ok (BitVec.eq_of_toNat_eq ?_)) <;>
    simp only [BitVec.toNat_setWidth, BitVec.extractLsb'_toNat, Nat.shiftRight_eq_div_pow, hword,
      DataWidth.bits] at hv ⊢ <;>
    omega

/-! ### Well-formed operands as the fields they fill -/

theorem exists_addr_of_isChannelCode {chan : Sel} (h : chan.isChannelCode = true) :
    ∃ c : Nibble, isChannelAddr c = true ∧ chan = .code (c.setWidth 8) := by
  cases chan with
  | name _ => cases h
  | code n =>
    have hall : ∀ n : BitVec 8, (Sel.code n).isChannelCode = true →
      isChannelAddr (n.setWidth 4) = true ∧ n = (n.setWidth 4).setWidth 8 := by decide
    obtain ⟨haddr, hn⟩ := hall n h
    exact ⟨_, haddr, congrArg Sel.code hn⟩

theorem isChannelCode_setWidth :
    ∀ c : Nibble, isChannelAddr c = true → (Sel.code (c.setWidth 8)).isChannelCode = true := by
  decide

theorem exists_mode_of_isModeCode {bound : Nat} (hbound : bound ≤ 4) {mode : Sel}
    (h : mode.isModeCode bound = true) : ∃ p : BitVec 2, p.toNat < bound ∧ mode = .code (p.setWidth 8) := by
  cases mode with
  | name _ => cases h
  | code n =>
    have hlt : n.toNat < bound := of_decide_eq_true h
    have hnarrow : (n.setWidth 2).toNat = n.toNat := by
      rw [BitVec.toNat_setWidth]
      omega
    refine ⟨n.setWidth 2, hnarrow.symm ▸ hlt, congrArg Sel.code (BitVec.eq_of_toNat_eq ?_)⟩
    rw [BitVec.toNat_setWidth, hnarrow]
    omega

theorem eq_zero_or_one_of_toNat_lt_two : ∀ p : BitVec 2, p.toNat < 2 → p = 0 ∨ p = 1 := by decide

/-- The operands of a well-formed value-carrying instruction. -/
theorem exists_addr_of_wellFormed_write {dw : DataWidth} {chan : Sel} {v : BitVec 16}
    (h : (chan.isChannelCode && valueFits dw v) = true) :
    (∃ c : Nibble, isChannelAddr c = true ∧ chan = .code (c.setWidth 8)) ∧ v.toNat < 2 ^ dw.bits := by
  obtain ⟨hchan, hv⟩ := Bool.and_eq_true_iff.mp h
  exact ⟨exists_addr_of_isChannelCode hchan, of_decide_eq_true hv⟩

/-- A well-formed LDAC instruction has mode SW and any channel, or mode HW and channel 0 (log entry 10). -/
theorem sw_or_hw_of_wellFormed_setLdacMode {dw : DataWidth} {mode chan : Sel}
    (h : wellFormed dw (.setLdacMode mode chan) = true) :
    (mode = .code 1 ∧ chan.isChannelCode = true) ∨ (mode = .code 0 ∧ chan = .code 0) := by
  simp only [wellFormed, Bool.and_eq_true, Bool.or_eq_true, decide_eq_true_eq] at h
  obtain ⟨⟨hmode, hchan⟩, rfl | rfl⟩ := h
  · exact .inl ⟨rfl, hchan⟩
  · obtain ⟨p, hp, rfl⟩ := exists_mode_of_isModeCode (by decide) hmode
    obtain rfl | rfl := eq_zero_or_one_of_toNat_lt_two p hp
    · exact .inr ⟨rfl, rfl⟩
    · exact .inl ⟨rfl, hchan⟩

/-! ### The word of each operation -/

/-- `w` is the word of `i` to all three: the encoder from the table's patterns, the operation's own checks and `Build`,
and the decoder. -/
structure WordOf (m : DeviceModel) (i : Instr) (w : Word) : Prop where
  encode_eq : encode m.dataWidth i = some w
  buildWord_eq : buildWord m i = .ok w
  decodeWord_eq : decodeWord m.dataWidth w = .ok i

theorem encode_eq_some_iff {dw : DataWidth} {i : Instr} {w : Word} :
    encode dw i = some w ↔ wellFormed dw i = true ∧ encodeFields dw i = w := by
  simp [encode]

/-- Format W, for each operation `op` that has it, with its opcode `cmd`. -/
theorem wordOf_write {m : DeviceModel} {cmd : Nibble} {op : Sel → BitVec 16 → Instr}
    (hwf : ∀ chan v, wellFormed m.dataWidth (op chan v) = (chan.isChannelCode && valueFits m.dataWidth v))
    (hencode : ∀ chan v, encodeFields m.dataWidth (op chan v) = encodeW m.dataWidth cmd chan v)
    (hbuild : ∀ chan v, buildWord m (op chan v) = buildWrite cmd m chan v)
    (hdecode : ∀ w, decodeFormat m.dataWidth w cmd = decodeW m.dataWidth w op)
    {c : Nibble} (hc : isChannelAddr c = true) {v : BitVec 16} (hv : v.toNat < 2 ^ m.dataWidth.bits) :
    WordOf m (op (.code (c.setWidth 8)) v) (pack cmd c (alignValue m v)) where
  encode_eq := encode_eq_some_iff.mpr
    ⟨by simp [hwf, isChannelCode_setWidth c hc, valueFits, hv], (hencode ..).trans (encodeW_eq_pack hv cmd c)⟩
  buildWord_eq := (hbuild ..).trans (buildWrite_eq_ok_iff.mpr ⟨c, resolveChannel_code_setWidth c hc, hv, rfl⟩)
  decodeWord_eq := by
    rw [decodeWord_pack, hdecode, decodeW, decodeAddr_pack hc, decodeValue_pack_alignValue hv]

/-! No format but W depends on the data width, so what the encoder and decoder do with the few operands of the other
formats is decided at one width. -/

section
variable {m : DeviceModel} {c : Nibble} {v : BitVec 16} (hc : isChannelAddr c = true)
include hc

theorem wordOf_writeInputRegister (hv : v.toNat < 2 ^ m.dataWidth.bits) :
    WordOf m (.writeInputRegister (.code (c.setWidth 8)) v) (pack 0x0 c (alignValue m v)) :=
  wordOf_write (fun _ _ => rfl) (fun _ _ => rfl) (fun _ _ => rfl) (fun _ => rfl) hc hv

theorem wordOf_writeInputRegisterUpdateAll (hv : v.toNat < 2 ^ m.dataWidth.bits) :
    WordOf m (.writeInputRegisterUpdateAll (.code (c.setWidth 8)) v) (pack 0x2 c (alignValue m v)) :=
  wordOf_write (fun _ _ => rfl) (fun _ _ => rfl) (fun _ _ => rfl) (fun _ => rfl) hc hv

theorem wordOf_writeAndUpdateChannel (hv : v.toNat < 2 ^ m.dataWidth.bits) :
    WordOf m (.writeAndUpdateChannel (.code (c.setWidth 8)) v) (pack 0x3 c (alignValue m v)) :=
  wordOf_write (fun _ _ => rfl) (fun _ _ => rfl) (fun _ _ => rfl) (fun _ => rfl) hc hv

theorem wordOf_updateDacRegister : WordOf m (.updateDacRegister (.code (c.setWidth 8))) (pack 0x1 c 0) := by
  have hall : ∀ c : Nibble, isChannelAddr c = true →
    encode .w12 (.updateDacRegister (.code (c.setWidth 8))) = some (pack 0x1 c 0) ∧
    decodeU (pack 0x1 c 0) = .ok (.updateDacRegister (.code (c.setWidth 8))) := by decide
  obtain ⟨hencode, hdecode⟩ := hall c hc
  exact ⟨hencode, buildUpdateDacRegister_eq_ok_iff.mpr ⟨c, resolveChannel_code_setWidth c hc, rfl⟩,
    (decodeWord_pack ..).trans hdecode⟩

theorem wordOf_setPowerMode (p : BitVec 2) :
    WordOf m (.setPowerMode (.code (p.setWidth 8)) (.code (c.setWidth 8)))
      (pack 0x4 0 ((p.setWidth 20 <<< 8) ||| channelBit c)) := by
  have hall : ∀ (p : BitVec 2) (c : Nibble), isChannelAddr c = true →
    encode .w12 (.setPowerMode (.code (p.setWidth 8)) (.code (c.setWidth 8))) =
      some (pack 0x4 0 ((p.setWidth 20 <<< 8) ||| channelBit c)) ∧
    decodeP (pack 0x4 0 ((p.setWidth 20 <<< 8) ||| channelBit c)) =
      .ok (.setPowerMode (.code (p.setWidth 8)) (.code (c.setWidth 8))) := by decide
  obtain ⟨hencode, hdecode⟩ := hall p c hc
  have hp := resolveMode_code_setWidth powerTable (by decide) p
    ((mem_codes_iff_of_two_bits powerTable (by decide) p).mpr p.isLt)
  exact ⟨hencode, buildSetPowerMode_eq_ok_iff.mpr ⟨p, hp, c, resolveChannel_code_setWidth c hc, rfl⟩,
    (decodeWord_pack ..).trans hdecode⟩

theorem wordOf_setLdacMode_sw :
    WordOf m (.setLdacMode (.code 1) (.code (c.setWidth 8))) (pack 0x6 0 ((1#2).setWidth 20 <<< c.toNat)) := by
  have hall : ∀ c : Nibble, isChannelAddr c = true →
    encode .w12 (.setLdacMode (.code 1) (.code (c.setWidth 8))) =
      some (pack 0x6 0 ((1#2).setWidth 20 <<< c.toNat)) ∧
    decodeL (pack 0x6 0 ((1#2).setWidth 20 <<< c.toNat)) =
      .ok (.setLdacMode (.code 1) (.code (c.setWidth 8))) := by decide
  obtain ⟨hencode, hdecode⟩ := hall c hc
  exact ⟨hencode, buildSetLdacMode_eq_ok_iff.mpr ⟨1, rfl, c, resolveChannel_code_setWidth c hc, rfl⟩,
    (decodeWord_pack ..).trans hdecode⟩

end

/-- Mode HW leaves no channel bit, and the decoder answers channel 0 for it (log entry 10). -/
theorem wordOf_setLdacMode_hw {m : DeviceModel} : WordOf m (.setLdacMode (.code 0) (.code 0)) (pack 0x6 0 0) :=
  ⟨rfl, rfl, rfl⟩

theorem wordOf_setClearCodeMode {m : DeviceModel} (p : BitVec 2) :
    WordOf m (.setClearCodeMode (.code (p.setWidth 8))) (pack 0x5 0 (p.setWidth 20)) := by
  have hall : ∀ p : BitVec 2,
    encode .w12 (.setClearCodeMode (.code (p.setWidth 8))) = some (pack 0x5 0 (p.setWidth 20)) ∧
    decodeC (pack 0x5 0 (p.setWidth 20)) = .ok (.setClearCodeMode (.code (p.setWidth 8))) := by decide
  obtain ⟨hencode, hdecode⟩ := hall p
  have hp := resolveMode_code_setWidth clearTable (by decide) p
    ((mem_codes_iff_of_two_bits clearTable (by decide) p).mpr p.isLt)
  exact ⟨hencode, buildSetClearCodeMode_eq_ok_iff.mpr ⟨p, hp, rfl⟩, (decodeWord_pack ..).trans hdecode⟩

theorem wordOf_reset {m : DeviceModel} : WordOf m .reset (pack 0x7 0 0) :=
  ⟨rfl, rfl, rfl⟩

theorem wordOf_setInternalReferenceMode {m : DeviceModel} {p : BitVec 2} (hp : p.toNat < 2) :
    WordOf m (.setInternalReferenceMode (.code (p.setWidth 8))) (pack 0x8 0 (p.setWidth 20)) := by
  obtain rfl | rfl := eq_zero_or_one_of_toNat_lt_two p hp
  · exact ⟨rfl, rfl, rfl⟩
  · exact ⟨rfl, rfl, rfl⟩

/-! ### Every well-formed instruction has its word, and every word of a format its instruction -/

theorem exists_wordOf_of_wellFormed {m : DeviceModel} {i : Instr} (h : wellFormed m.dataWidth i = true) :
    ∃ w, WordOf m i w := by
  cases i with
  | writeInputRegister chan v =>
    obtain ⟨⟨c, hc, rfl⟩, hv⟩ := exists_addr_of_wellFormed_write h
    exact ⟨_, wordOf_writeInputRegister hc hv⟩
  | updateDacRegister chan =>
    obtain ⟨c, hc, rfl⟩ := exists_addr_of_isChannelCode h
    exact ⟨_, wordOf_updateDacRegister hc⟩
  | writeInputRegisterUpdateAll chan v =>
    obtain ⟨⟨c, hc, rfl⟩, hv⟩ := exists_addr_of_wellFormed_write h
    exact ⟨_, wordOf_writeInputRegisterUpdateAll hc hv⟩
  | writeAndUpdateChannel chan v =>
    obtain ⟨⟨c, hc, rfl⟩, hv⟩ := exists_addr_of_wellFormed_write h
    exact ⟨_, wordOf_writeAndUpdateChannel hc hv⟩
  | setPowerMode mode chan =>
    obtain ⟨hmode, hchan⟩ := Bool.and_eq_true_iff.mp h
    obtain ⟨p, -, rfl⟩ := exists_mode_of_isModeCode (by decide) hmode
    obtain ⟨c, hc, rfl⟩ := exists_addr_of_isChannelCode hchan
    exact ⟨_, wordOf_setPowerMode hc p⟩
  | setClearCodeMode mode =>
    obtain ⟨p, -, rfl⟩ := exists_mode_of_isModeCode (by decide) h
    exact ⟨_, wordOf_setClearCodeMode p⟩
  | setLdacMode mode chan =>
    obtain ⟨rfl, hchan⟩ | ⟨rfl, rfl⟩ := sw_or_hw_of_wellFormed_setLdacMode h
    · obtain ⟨c, hc, rfl⟩ := exists_addr_of_isChannelCode hchan
      exact ⟨_, wordOf_setLdacMode_sw hc⟩
    · exact ⟨_, wordOf_setLdacMode_hw⟩
  | reset => exact ⟨_, wordOf_reset⟩
  | setInternalReferenceMode mode =>
    obtain ⟨p, hp, rfl⟩ := exists_mode_of_isModeCode (by decide) h
    exact ⟨_, wordOf_setInternalReferenceMode hp⟩

theorem exists_wordOf_of_formatFields {m : DeviceModel} {cmd addr : Nibble} {data : Payload}
    (h : FormatFields m cmd addr data) : ∃ i, WordOf m i (pack cmd addr data) := by
  cases h with
  | write hcmd hc hv =>
    simp only [List.mem_cons, List.not_mem_nil, or_false] at hcmd
    obtain rfl | rfl | rfl := hcmd
    · exact ⟨_, wordOf_writeInputRegister hc hv⟩
    · exact ⟨_, wordOf_writeInputRegisterUpdateAll hc hv⟩
    · exact ⟨_, wordOf_writeAndUpdateChannel hc hv⟩
  | update hc => exact ⟨_, wordOf_updateDacRegister hc⟩
  | @power p c hc => exact ⟨_, wordOf_setPowerMode hc p⟩
  | @clear p => exact ⟨_, wordOf_setClearCodeMode p⟩
  | @ldac p c hp hc =>
    obtain rfl | rfl := eq_zero_or_one_of_toNat_lt_two p hp
    · simpa using ⟨_, wordOf_setLdacMode_hw (m := m)⟩
    · exact ⟨_, wordOf_setLdacMode_sw hc⟩
  | reset => exact ⟨_, wordOf_reset⟩
  | reference hp => exact ⟨_, wordOf_setInternalReferenceMode hp⟩

/-- A word that decodes is legal, so of a format, and every word of a format is some instruction's (R92). -/
theorem exists_wordOf_of_decodeWord {m : DeviceModel} {w : Word} {i : Instr}
    (h : decodeWord m.dataWidth w = .ok i) : ∃ j, WordOf m j w := by
  obtain ⟨j, hj⟩ := (producedWordsAreExactlyTheLegalWords m w).mp
    ((decoderAcceptsExactlyTheLegalWords m.dataWidth w).mpr ⟨i, h⟩)
  obtain ⟨addr, data, hfields, rfl⟩ := formatWord_of_buildWord hj
  exact exists_wordOf_of_formatFields hfields

/-- The instruction whose word it is, is the one it decodes to, since a word decodes to one instruction only. -/
theorem wordOf_of_decodeWord {m : DeviceModel} {w : Word} {i : Instr} (h : decodeWord m.dataWidth w = .ok i) :
    WordOf m i w := by
  obtain ⟨j, hj⟩ := exists_wordOf_of_decodeWord h
  have hij : i = j := Except.ok.inj (h.symm.trans hj.decodeWord_eq)
  exact hij ▸ hj

/-- A device model of each data width; encoder and decoder depend on nothing else of a model. -/
def modelOfWidth (dw : DataWidth) : DeviceModel := { Config.givenModel with dataWidth := dw }

/-- Settles O5: the word of a well-formed instruction decodes to it. -/
theorem decodeOfEncodeIsTheInstruction : Obligations.DecodeOfEncodeIsTheInstruction := by
  intro dw i hwf
  obtain ⟨w, hw⟩ := exists_wordOf_of_wellFormed (m := modelOfWidth dw) hwf
  exact ⟨w, hw.encode_eq, hw.decodeWord_eq⟩

/-- Settles O6: a word that decodes is the word of the instruction it decodes to, and only well-formed instructions have
one. -/
theorem encodeOfDecodeIsTheWord : Obligations.EncodeOfDecodeIsTheWord := by
  intro dw w i hdecode
  have hw : WordOf (modelOfWidth dw) i w := wordOf_of_decodeWord hdecode
  obtain ⟨hwf, -⟩ := encode_eq_some_iff.mp hw.encode_eq
  exact ⟨hwf, hw.encode_eq⟩

/-- Settles O9: the encoder and `Build` agree on the word of a well-formed instruction. -/
theorem builtWordIsTheTablePattern : Obligations.BuiltWordIsTheTablePattern := by
  intro m i hwf
  obtain ⟨w, hw⟩ := exists_wordOf_of_wellFormed hwf
  exact ⟨w, hw.encode_eq, hw.buildWord_eq⟩

/-- Settles O13: the decoder run on each of the eleven words. -/
theorem writtenOutWordsDecode : Obligations.WrittenOutWordsDecode :=
  ⟨rfl, rfl, rfl, rfl, rfl, rfl, rfl, rfl, rfl, rfl, rfl⟩

end Sys2Proof.Machine
end

