-- ==== Sys2Proof/Proofs/TwoOperandCommands.lean ====
section
/-! The operations with two operands: `writeAndUpdateChannel`, `setPowerMode` and `setLdacMode` (R103, R120, R123). -/

namespace Sys2Proof.Machine

open Sys2Proof.Safety

/-- Settles O26: the shared checks and `Build` of the value-carrying commands, at opcode 0x3 (R103, D22). -/
theorem writeAndUpdateChannelSendsShiftedValue : Obligations.WriteAndUpdateChannelSendsShiftedValue :=
  sendsShiftedValue_of_buildWrite (cmd := 0x3) fun _ _ _ => rfl

/-- `Pack` of format P as the property formula of R120. -/
theorem pack_power : ∀ (p : BitVec 2) (c : Nibble), pack 0x4 0 ((p.setWidth 20 <<< 8) ||| channelBit c) =
    (0x4#32 <<< 24) ||| (p.setWidth 32 <<< 8) ||| (1#32 <<< c.toNat) := by
  decide

/-- `Pack` of format L as the property formula of R123. -/
theorem pack_ldac : ∀ (p : BitVec 2) (c : Nibble),
    pack 0x6 0 (p.setWidth 20 <<< c.toNat) = (0x6#32 <<< 24) ||| (p.setWidth 32 <<< c.toNat) := by
  decide

/-- The checks that R120 and R123 share: the mode against `table`, then the channel; `word` is what `Build` makes of
them. -/
def buildModeAndChannel (table : List (String × BitVec 2)) (word : BitVec 2 → Nibble → Word) (mode chan : Sel) :
    Except Status Word := do
  let p ← resolveMode table mode
  let c ← resolveChannel chan
  return word p c

/-- Every operation whose checks are the shared ones of R120 and R123 sends its word, or ends with the status of the
first check that fails. -/
theorem sendsWord_of_buildModeAndChannel {table : List (String × BitVec 2)} {word : BitVec 2 → Nibble → Word}
    {op : Sel → Sel → Instr}
    (hbuild : ∀ m mode chan, buildWord m (op mode chan) = buildModeAndChannel table word mode chan)
    (mode chan : Sel) (s : State) (hidle : s.phase = .idle) :
    (∀ p c, resolveMode table mode = .ok p → resolveChannel chan = .ok c →
      ∃ t, exec (op mode chan) s = .next t ∧ Transmitted s t (word p c)) ∧
    (∀ p, resolveMode table mode = .ok p → (∀ c, resolveChannel chan ≠ .ok c) →
      ∃ t, exec (op mode chan) s = .next t ∧ Rejected s t .invalidChannel) ∧
    ((∀ p, resolveMode table mode ≠ .ok p) →
      ∃ t, exec (op mode chan) s = .next t ∧ Rejected s t .invalidMode) := by
  refine ⟨fun p c hp hc => exists_transmitted_of_buildWord_ok hidle ?_,
    fun p hp hchan => exists_rejected_of_buildWord_error hidle ?_,
    fun hmode => exists_rejected_of_buildWord_error hidle ?_⟩
  · rw [hbuild, buildModeAndChannel, hp, hc]
    rfl
  · rw [hbuild, buildModeAndChannel, hp, resolveChannel_of_forall_ne_ok hchan]
    rfl
  · rw [hbuild, buildModeAndChannel, resolveMode_of_forall_ne_ok hmode]
    rfl

/-- Settles O27: the shared checks of mode and channel, with POWER and R120's formula (D5, D10). -/
theorem setPowerModeSendsModeAndChannelBit : Obligations.SetPowerModeSendsModeAndChannelBit :=
  sendsWord_of_buildModeAndChannel (word := fun p c => (0x4#32 <<< 24) ||| (p.setWidth 32 <<< 8) ||| (1#32 <<< c.toNat))
    fun _ _ _ => by simp only [buildWord, buildSetPowerMode, buildModeAndChannel, pack_power]

/-- Settles O29: the shared checks of mode and channel, with LDAC and R123's formula (D5, D10). -/
theorem setLdacModeSendsModeAtChannelBit : Obligations.SetLdacModeSendsModeAtChannelBit :=
  sendsWord_of_buildModeAndChannel (word := fun p c => (0x6#32 <<< 24) ||| (p.setWidth 32 <<< c.toNat))
    fun _ _ _ => by simp only [buildWord, buildSetLdacMode, buildModeAndChannel, pack_ldac]

end Sys2Proof.Machine
end

