-- ==== Sys2Proof/Proofs/ExecutionFrame.lean ====
section
/-! The frame of execution (R85): what an operation appends, which status it ends with, and what that depends on. -/

namespace Sys2Proof.Machine

open Sys2Proof.Safety

/-- Everything an operation can do when it answers a next state. -/
theorem exec_next {i : Instr} {s t : State} (h : exec i s = .next t) :
    s.phase = .idle ∧ ((∃ e, buildWord s.cfg i = .error e ∧ t = rejectRequest e s) ∨
      (∃ w, buildWord s.cfg i = .ok w ∧ t = transmitRequest w s)) :=
  runRequest_next (exec_eq_runRequest i s ▸ h)

/-- Settles O38: while BUSY the frame has no step (R185, D16). -/
theorem overlappingRequestIsRefused : Obligations.OverlappingRequestIsRefused :=
  fun i s hbusy => (exec_eq_runRequest i s).trans (runRequest_busy hbusy _)

/-- Settles O33: a rejected request appends no event and a transmitted one appends one (R85). -/
theorem oneStatusAndAtMostOneTransmit : Obligations.OneStatusAndAtMostOneTransmit := by
  intro i s t h
  obtain ⟨-, ⟨e, -, rfl⟩ | ⟨w, -, rfl⟩⟩ := exec_next h
  · exact ⟨⟨[], by simp, (List.append_nil _).symm, by simp⟩, rfl, rfl, rfl, rfl, rfl, rfl⟩
  · exact ⟨⟨[_], by simp, transmitRequest_txLog w s, by simp⟩, rfl, rfl, rfl, rfl, rfl, rfl⟩

/-! ### The status and the transport's answer -/

theorem statusOfOutcome_inj {o o' : TransportOutcome} : statusOfOutcome o = statusOfOutcome o' ↔ o = o' := by
  cases o <;> cases o' <;> decide

/-- An operation ends with the status of the answer `o` exactly when it got that answer: checks raise other statuses
(R152, R153). -/
theorem exec_status_eq_statusOfOutcome_iff {i : Instr} {s t : State} (h : exec i s = .next t) (o : TransportOutcome) :
    t.status = statusOfOutcome o ↔ (∃ w, buildWord s.cfg i = .ok w) ∧ s.nextOutcome = o := by
  obtain ⟨-, ⟨e, he, rfl⟩ | ⟨w, hw, rfl⟩⟩ := exec_next h
  · have hne : e ≠ statusOfOutcome o := fun heq =>
      statusOfOutcome_notMem_validationErrors o (heq ▸ raisesValidation_buildWord s.cfg i e he)
    simp [he, rejectRequest_eq, hne]
  · simp [hw, statusOfOutcome_inj]

theorem exec_txLog_ne_iff {i : Instr} {s t : State} (h : exec i s = .next t) :
    (∃ w, buildWord s.cfg i = .ok w) ↔ t.txLog ≠ s.txLog := by
  obtain ⟨-, ⟨e, he, rfl⟩ | ⟨w, hw, rfl⟩⟩ := exec_next h
  · simp [he, rejectRequest_eq]
  · simp [hw]

/-- Settles O36: OK is the status of the answer `ok` (R150, D11). -/
theorem okMeansTheTransportAnsweredOk : Obligations.OkMeansTheTransportAnsweredOk :=
  fun _ _ _ h => ⟨exec_status_eq_statusOfOutcome_iff h .ok, exec_txLog_ne_iff h⟩

/-- An operation that ends with TransportFailure has appended its word with outcome `fail` (R153). -/
theorem exec_txLog_of_transportFailure {i : Instr} {s t : State} (h : exec i s = .next t)
    (hstatus : t.status = .transportFailure) :
    ∃ w, buildWord s.cfg i = .ok w ∧ t.txLog = s.txLog ++ [{ bytes := serialize w, outcome := .fail }] := by
  obtain ⟨⟨w, hw⟩, hfail⟩ := (exec_status_eq_statusOfOutcome_iff h .fail).mp hstatus
  obtain ⟨hidle, -⟩ := exec_next h
  cases h.symm.trans (exec_of_buildWord_ok hidle hw)
  exact ⟨w, hw, by rw [transmitRequest_txLog, hfail]⟩

/-- STATUS is written and never read (R32). -/
theorem exec_with_status {i : Instr} {s t : State} (h : exec i s = .next t) (st : Status) :
    exec i { s with status := st } = .next t := by
  obtain ⟨hidle, ⟨e, he, rfl⟩ | ⟨w, hw, rfl⟩⟩ := exec_next h
  · exact exec_of_buildWord_error hidle he
  · exact exec_of_buildWord_ok hidle hw

/-- Settles O37: the checks and the word depend on CFG and the operands alone, the status of a transmit on the answer
alone (D3). -/
theorem noShadowState : Obligations.NoShadowState := by
  intro i s s' hidle hidle' hcfg houtcome
  cases hbuild : buildWord s.cfg i with
  | error e =>
    exact ⟨_, _, [], exec_of_buildWord_error hidle hbuild, exec_of_buildWord_error hidle' (hcfg ▸ hbuild), rfl,
      (List.append_nil _).symm, (List.append_nil _).symm⟩
  | ok w =>
    refine ⟨_, _, [⟨serialize w, s.nextOutcome⟩], exec_of_buildWord_ok hidle hbuild,
      exec_of_buildWord_ok hidle' (hcfg ▸ hbuild), ?_, transmitRequest_txLog w s, ?_⟩
    · rw [transmitRequest_status, transmitRequest_status, houtcome]
    · rw [transmitRequest_txLog, houtcome]

end Sys2Proof.Machine
end

