-- ==== Sys2Proof/Proofs/Steps.lean ====
section
/-! One step of the machine: which requests it runs, and what it leaves in STATUS, the logs and the position
(R32 to R34). -/

namespace Sys2Proof.Machine

open Sys2Proof.Safety

/-! ### A step by what the reset line does -/

theorem step_of_resets_nil {s : State} (h : s.resets = []) : step s = presentRequest s := by
  simp [step, h]

theorem popReset_of_resets_cons {s : State} {d : ResetDraw} {rest : List ResetDraw} (h : s.resets = d :: rest) :
    s.popReset = { s with resets := rest } := by
  simp [State.popReset, h]

theorem step_of_quiet {s : State} {rest : List ResetDraw} (h : s.resets = .quiet :: rest) :
    step s = presentRequest { s with resets := rest } := by
  rw [← popReset_of_resets_cons h]
  simp [step, h]

theorem step_of_arrives {s : State} {point : ResetPoint} {restart : Bool} {rest : List ResetDraw}
    (h : s.resets = .arrives point restart :: rest) :
    step s = .next (takeBlockReset point restart { s with resets := rest }) := by
  rw [← popReset_of_resets_cons h]
  simp [step, h]

/-! ### The request at the program position -/

theorem presentRequest_of_decodeRequest {s : State} {r : Request} {i : Instr} (hr : s.program[s.k]? = some r)
    (hi : decodeRequest r = some i) : presentRequest s = exec i s := by
  rw [presentRequest_some hr, buildRequest, hi, exec_eq_runRequest]

/-- Settles O40: with the reset line quiet a step presents the request, and a presented request runs its operation. -/
theorem stepRunsTheSelectedOperation : Obligations.StepRunsTheSelectedOperation :=
  fun _ _ _ hr hi => ⟨fun h => (step_of_resets_nil h).trans (presentRequest_of_decodeRequest hr hi),
    fun _ h => (step_of_quiet h).trans (presentRequest_of_decodeRequest hr hi)⟩

theorem exists_rejected_of_unusedOp {s : State} {r : Request} (hidle : s.phase = .idle)
    (hr : s.program[s.k]? = some r) (hop : 9 ≤ r.op.toNat) :
    ∃ t, presentRequest s = .next t ∧ Rejected s t .invalidOperation := by
  refine ⟨_, ?_, rejectRequest_eq .invalidOperation s⟩
  rw [presentRequest_some hr, buildRequest, decodeRequest_eq_none hop, runRequest_error hidle]

/-- Settles O41: an op select above 8 decodes to no operation, and the frame rejects it (R83, D12). -/
theorem unusedOpSelectIsRejected : Obligations.UnusedOpSelectIsRejected :=
  fun _ _ hidle hr hop =>
    ⟨fun h => step_of_resets_nil h ▸ exists_rejected_of_unusedOp hidle hr hop,
      fun _ h => step_of_quiet h ▸ exists_rejected_of_unusedOp hidle hr hop⟩

/-- Settles O42: past the end of the program there is no request to present (log entries 6 and 8). -/
theorem waitsWithoutARequest : Obligations.WaitsWithoutARequest :=
  fun _ hend => ⟨fun h => (step_of_resets_nil h).trans (presentRequest_none (List.getElem?_eq_none hend)),
    fun _ h => (step_of_quiet h).trans (presentRequest_none (List.getElem?_eq_none hend))⟩

/-- On an idle block the request port always answers. -/
theorem exists_presentRequest_next {s : State} (hidle : s.phase = .idle) :
    ∃ t, presentRequest s = .next t ∧ t.phase = .idle := by
  cases hr : s.nextRequest with
  | none => exact ⟨s, presentRequest_none hr, hidle⟩
  | some r =>
    rw [presentRequest_some hr]
    cases buildRequest s.cfg r with
    | error e => exact ⟨_, runRequest_error hidle e, rfl⟩
    | ok w => exact ⟨_, runRequest_ok hidle w, rfl⟩

theorem takeBlockReset_phase (point : ResetPoint) (restart : Bool) (s : State) :
    (takeBlockReset point restart s).phase = .idle := by
  cases point <;> rfl

/-- Settles O43: one case for each thing the reset line can do (D15, log entries 6 and 8). -/
theorem idleBlockAlwaysAnswers : Obligations.IdleBlockAlwaysAnswers := by
  intro s hidle
  cases hresets : s.resets with
  | nil =>
    rw [step_of_resets_nil hresets]
    exact exists_presentRequest_next hidle
  | cons draw rest =>
    cases draw with
    | quiet =>
      rw [step_of_quiet hresets]
      exact exists_presentRequest_next hidle
    | arrives point restart => exact ⟨_, step_of_arrives hresets, takeBlockReset_phase ..⟩

/-! ### What a step leaves in STATUS, the logs and the position -/

/-- The three ways a step ends, in STATUS, the status log and the position: a request completed with either kind of
status, nothing to do, or a block reset. -/
inductive StepEnd (s t : State) : Prop
  | completed (statusLog : t.statusLog = s.statusLog ++ [t.status]) (k : t.k = s.k + 1)
  | waited (statusLog : t.statusLog = s.statusLog) (status : t.status = s.status) (k : t.k = s.k)
  | blockReset (point : ResetPoint) (restart : Bool) (rest : List ResetDraw)
      (resets : s.resets = .arrives point restart :: rest)
      (statusLog : t.statusLog = s.statusLog) (status : t.status = .none) (k : t.k = if restart then 0 else s.k)

/-- Before the block reset proper, at most the interrupted transmit is logged. -/
theorem takeBlockReset_eq_blockReset (point : ResetPoint) (restart : Bool) (s : State) :
    ∃ u : State, takeBlockReset point restart s = blockReset restart u ∧
      u.statusLog = s.statusLog ∧ u.k = s.k ∧ u.program = s.program ∧
      ∃ events, events.length ≤ 1 ∧ u.txLog = s.txLog ++ events := by
  obtain h | ⟨w, -, -, h⟩ := takeBlockReset_cases point restart s
  · exact ⟨s, h, rfl, rfl, rfl, [], by simp, (List.append_nil _).symm⟩
  · exact ⟨_, h, rfl, rfl, rfl, [_], by simp, State.logTransmit_txLog (s.latch w) .fail⟩

/-- What every step does to the program and the transmit log, and the way it ends. -/
theorem step_effect {s t : State} (h : step s = .next t) :
    t.program = s.program ∧ (∃ events, events.length ≤ 1 ∧ t.txLog = s.txLog ++ events) ∧ StepEnd s t := by
  obtain ⟨u, hu, hcases⟩ := step_next h
  have hfields : u.program = s.program ∧ u.txLog = s.txLog ∧ u.statusLog = s.statusLog ∧ u.status = s.status ∧
      u.k = s.k := by
    obtain rfl | rfl := hu <;> exact ⟨rfl, rfl, rfl, rfl, rfl⟩
  obtain ⟨hprogram, htx, hlog, hstatus, hk⟩ := hfields
  have hsame : ∃ events, events.length ≤ 1 ∧ u.txLog = u.txLog ++ events := ⟨[], by simp, (List.append_nil _).symm⟩
  rw [← hprogram, ← htx]
  obtain ⟨point, restart, rest, hresets, -, rfl⟩ | ⟨-, rfl⟩ | ⟨-, e, -, -, -, rfl⟩ | ⟨-, w, -, -, -, rfl⟩ := hcases
  · obtain ⟨v, hv, hvlog, hvk, hvprogram, hvtx⟩ := takeBlockReset_eq_blockReset point restart u
    rw [hv]
    exact ⟨hvprogram, hvtx,
      .blockReset point restart rest hresets (hvlog.trans hlog) rfl (by rw [blockReset_k, hvk, hk])⟩
  · exact ⟨rfl, hsame, .waited hlog hstatus hk⟩
  · exact ⟨rfl, hsame, .completed (by rw [rejectRequest_eq, hlog]) (by rw [rejectRequest_eq, hk])⟩
  · exact ⟨rfl, ⟨[_], by simp, transmitRequest_txLog w u⟩,
      .completed (by rw [transmitRequest_statusLog, hlog, transmitRequest_status]) (by rw [transmitRequest_k, hk])⟩

/-- Settles O45: the transmit log by what every step does to it, the status log by the way the step ended (R34). -/
theorem logsOnlyGrow : Obligations.LogsOnlyGrow := by
  intro s t h
  obtain ⟨-, ⟨events, hlen, htx⟩, ⟨hlog, -⟩ | ⟨hlog, -, -⟩ | ⟨-, -, -, -, hlog, -, -⟩⟩ := step_effect h
  · exact ⟨events, [t.status], htx, hlog, hlen, by simp, by simp⟩
  · exact ⟨events, [], htx, by simpa using hlog, hlen, by simp, by simp⟩
  · exact ⟨events, [], htx, by simpa using hlog, hlen, by simp, by simp⟩

/-- Settles O46: only the host's restart after a block reset does more than count statuses (D17, log entry 8). -/
theorem positionAdvancesWithEachStatus : Obligations.PositionAdvancesWithEachStatus := by
  intro s t h
  obtain ⟨hprogram, -, hend⟩ := step_effect h
  refine ⟨hprogram, ?_⟩
  obtain ⟨hlog, hk⟩ | ⟨hlog, -, hk⟩ | ⟨point, restart, rest, hresets, hlog, -, hk⟩ := hend
  · exact .inl ⟨by simp [hlog], hk⟩
  · exact .inr (.inl ⟨hlog, hk⟩)
  · cases restart with
    | false => exact .inr (.inl ⟨hlog, hk⟩)
    | true => exact .inr (.inr ⟨hlog, hk, point, rest, hresets⟩)

/-- Settles O47: the three ways a step ends are the three cases (R32, D11, D15). -/
theorem statusWrittenOnlyAtCompletionOrReset : Obligations.StatusWrittenOnlyAtCompletionOrReset := by
  intro s t h
  obtain ⟨-, -, hend⟩ := step_effect h
  obtain ⟨hlog, -⟩ | ⟨hlog, hstatus, -⟩ | ⟨point, restart, rest, hresets, hlog, hstatus, -⟩ := hend
  · exact .inl hlog
  · exact .inr (.inl ⟨hlog, hstatus⟩)
  · exact .inr (.inr ⟨hlog, hstatus, point, restart, rest, hresets⟩)

/-- Settles O35: the status names the answer, no step takes an event back, and what follows depends on neither the
answer nor STATUS (R153, D13). -/
theorem transportFailureKeepsTheEvent : Obligations.TransportFailureKeepsTheEvent := by
  refine ⟨fun i s t h => ⟨exec_status_eq_statusOfOutcome_iff h .fail, fun hstatus => ?_⟩, fun s t h => ?_,
    fun i s w rest hidle hw => ?_, fun i s t st h => exec_with_status h st⟩
  · obtain ⟨w, hw, htx⟩ := exec_txLog_of_transportFailure h hstatus
    exact ⟨w, hw, htx, fun n => mayDeliver_fail_iff.mpr (List.take_prefix n _)⟩
  · obtain ⟨-, ⟨events, -, htx⟩, -⟩ := step_effect h
    exact ⟨events, htx.symm⟩
  · exact ⟨_, _, exec_of_buildWord_ok hidle hw, exec_of_buildWord_ok hidle hw, rfl, rfl, rfl, rfl, rfl⟩

end Sys2Proof.Machine
end

