-- ==== Sys2Proof/Proofs/BlockReset.lean ====
section
/-! A block reset at each point where it can arrive (R181). -/

namespace Sys2Proof.Machine

/-! ### The word in flight -/

theorem inFlightWord_of_busy {s : State} (h : s.phase = .busy) : inFlightWord s = some s.cmdWord := by
  simp [inFlightWord, h]

theorem inFlightWord_of_noRequest {s : State} (hidle : s.phase = .idle) (hr : s.nextRequest = none) :
    inFlightWord s = none := by
  simp [inFlightWord, hidle, hr]

theorem inFlightWord_of_request {s : State} {r : Request} (hidle : s.phase = .idle) (hr : s.nextRequest = some r) :
    inFlightWord s = (buildRequest s.cfg r).toOption := by
  simp [inFlightWord, hidle, hr]

/-! ### The block reset with and without a word in flight -/

theorem takeBlockReset_of_inFlightWord_eq_some {s : State} {w : Word} (h : inFlightWord s = some w) (restart : Bool) :
    takeBlockReset .duringTransmit restart s = blockReset restart ((s.latch w).logTransmit .fail) := by
  simp [takeBlockReset, interruptTransmit, h]

theorem takeBlockReset_of_inFlightWord_eq_none {s : State} {point : ResetPoint}
    (h : point = .duringTransmit → inFlightWord s = none) (restart : Bool) :
    takeBlockReset point restart s = blockReset restart s := by
  obtain hreset | ⟨w, hpoint, hw, -⟩ := takeBlockReset_cases point restart s
  · exact hreset
  · rw [h hpoint] at hw
    cases hw

/-- Settles O55: with no word in flight the draw is the block reset alone (R181, D15, log entry 8). -/
theorem blockResetKeepsCfgAndLogs : Obligations.BlockResetKeepsCfgAndLogs := by
  intro s point restart rest hresets hnone
  refine ⟨blockReset restart { s with resets := rest }, ?_, rfl, rfl, rfl, rfl, rfl, rfl, rfl, rfl, rfl⟩
  rw [step_of_arrives hresets, takeBlockReset_of_inFlightWord_eq_none fun hpoint => ?_]
  obtain ⟨hidle, hr⟩ := hnone hpoint
  exact inFlightWord_of_noRequest hidle hr

/-- Settles O56: the word in flight is what the request's checks and `Build` answer, if they answer one (R181, D15). -/
theorem blockResetAbandonsTheRequest : Obligations.BlockResetAbandonsTheRequest := by
  intro s r restart rest hidle hr hresets
  have hflight : inFlightWord { s with resets := rest } = (buildRequest s.cfg r).toOption :=
    inFlightWord_of_request hidle hr
  cases hbuild : buildRequest s.cfg r with
  | error e =>
    rw [hbuild] at hflight
    refine ⟨_, (step_of_arrives hresets).trans
      (congrArg _ (takeBlockReset_of_inFlightWord_eq_none (fun _ => hflight) restart)), rfl, rfl, rfl, rfl, rfl, rfl,
      rfl, rfl, nofun, fun _ _ => rfl⟩
  | ok w =>
    rw [hbuild] at hflight
    refine ⟨_, (step_of_arrives hresets).trans
      (congrArg _ (takeBlockReset_of_inFlightWord_eq_some hflight restart)), rfl, rfl, rfl, rfl, rfl, rfl,
      rfl, rfl, fun w' hw => ?_, nofun⟩
    cases hw
    rfl

/-- Settles O57: while BUSY the word in flight is CMD_WORD (R35, R181). -/
theorem blockResetLogsTheWordInProgress : Obligations.BlockResetLogsTheWordInProgress := by
  intro s restart rest hbusy hresets
  have hflight : inFlightWord { s with resets := rest } = some s.cmdWord := inFlightWord_of_busy hbusy
  exact ⟨_, (step_of_arrives hresets).trans
      (congrArg _ (takeBlockReset_of_inFlightWord_eq_some hflight restart)), rfl, rfl, rfl, rfl, rfl, rfl,
      rfl, rfl, rfl⟩

end Sys2Proof.Machine
end

