-- ==== Sys2Proof/Proofs/Invariant.lean ====
section
/-! The invariant of the block: it holds after construction, and everything a step can do keeps it. -/

namespace Sys2Proof.Machine

open Sys2Proof.Safety

/-! ### What a request's checks answer -/

theorem raisesValidation_buildRequest (m : DeviceModel) (r : Request) : RaisesValidation (buildRequest m r) := by
  unfold buildRequest
  split
  next i _ => exact raisesValidation_buildWord m i
  next => intro e h; cases h; decide

theorem legalWord_of_buildRequest {m : DeviceModel} {r : Request} {w : Word} (h : buildRequest m r = .ok w) :
    legalWord m.dataWidth w = true := by
  unfold buildRequest at h
  split at h
  next i _ => exact (producedWordsAreExactlyTheLegalWords m w).mpr ⟨i, h⟩
  next => cases h

theorem eq_ok_of_toOption_eq_some {x : Except Status Word} {w : Word} (h : x.toOption = some w) : x = .ok w := by
  cases x with
  | error e => cases h
  | ok w' => exact congrArg Except.ok (Option.some.inj h)

/-- On an idle block the word a block reset can interrupt is the next request's (R181). -/
theorem buildRequest_of_inFlightWord {s : State} {w : Word} (hidle : s.phase = .idle) (h : inFlightWord s = some w) :
    ∃ r, buildRequest s.cfg r = .ok w := by
  cases hr : s.nextRequest with
  | none =>
    rw [inFlightWord_of_noRequest hidle hr] at h
    cases h
  | some r =>
    rw [inFlightWord_of_request hidle hr] at h
    exact ⟨r, eq_ok_of_toOption_eq_some h⟩

/-! ### The counts of the two logs -/

theorem answered_append_singleton (o : TransportOutcome) (log : List TransmitEvent) (e : TransmitEvent) :
    answered o (log ++ [e]) = answered o log + if e.outcome = o then 1 else 0 := by
  simp [answered, List.countP_append, List.countP_singleton]

/-- The transport's answers give neither of the statuses that are never returned (R150). -/
theorem statusOfOutcome_returned (o : TransportOutcome) :
    statusOfOutcome o ≠ .none ∧ statusOfOutcome o ≠ .unknownDeviceModel := by
  cases o <;> decide

end Sys2Proof.Machine

namespace Sys2Proof.Safety

open Sys2Proof.Machine

/-! ### What keeps the invariant -/

/-- The invariant does not speak of the reset line. -/
theorem Inv.popReset {s : State} (h : Inv s) : Inv s.popReset :=
  ⟨h.idle, h.held, h.latest, h.returned, h.legal, h.oks, h.fails⟩

/-- A block reset writes NONE to STATUS and nothing to the logs (R181). -/
theorem Inv.blockReset {s : State} (h : Inv s) (restart : Bool) : Inv (blockReset restart s) :=
  ⟨rfl, by simp, .inl rfl, h.returned, h.legal, h.oks, h.fails⟩

/-- An interrupted transmit is one more failed transmit, with no status of its own (R181). -/
theorem Inv.interrupted {s : State} (h : Inv s) {w : Word} (hw : legalWord s.cfg.dataWidth w = true) :
    Inv ((s.latch w).logTransmit .fail) where
  idle := h.idle
  held := h.held
  latest := h.latest
  returned := h.returned
  legal := by
    simp only [State.logTransmit_txLog, List.forall_mem_append, List.forall_mem_singleton]
    exact ⟨h.legal, by simpa using hw⟩
  oks := by simpa [answered_append_singleton] using h.oks
  fails := by simpa [answered_append_singleton] using h.fails.trans (Nat.le_succ _)

/-- A validation error is a status of no transmit (R152). -/
theorem Inv.rejectRequest {s : State} (h : Inv s) {e : Status} (he : e ∈ validationErrors) :
    Inv (rejectRequest e s) := by
  have herr : ∀ e ∈ validationErrors, (e ≠ .none ∧ e ≠ .unknownDeviceModel) ∧ e ≠ .ok ∧ e ≠ .transportFailure := by
    decide
  obtain ⟨hret, hok, hfail⟩ := herr e he
  rw [rejectRequest_eq]
  exact {
    idle := rfl
    held := hret.2
    latest := .inr List.getLast?_concat
    returned := by simpa only [List.forall_mem_append, List.forall_mem_singleton] using ⟨h.returned, hret⟩
    legal := h.legal
    oks := by simpa [List.count_append, List.count_singleton, hok] using h.oks
    fails := by simpa [List.count_append, List.count_singleton, hfail] using h.fails }

/-- A transmit and the status of its answer are logged together (R85). -/
theorem Inv.transmitRequest {s : State} (h : Inv s) {w : Word} (hw : legalWord s.cfg.dataWidth w = true) :
    Inv (transmitRequest w s) where
  idle := rfl
  held := (statusOfOutcome_returned s.nextOutcome).2
  latest := .inr List.getLast?_concat
  returned := by
    simp only [transmitRequest_statusLog, List.forall_mem_append, List.forall_mem_singleton]
    exact ⟨h.returned, statusOfOutcome_returned s.nextOutcome⟩
  legal := by
    simp only [transmitRequest_txLog, List.forall_mem_append, List.forall_mem_singleton]
    exact ⟨h.legal, by simpa using hw⟩
  oks := by
    rw [transmitRequest_txLog, transmitRequest_statusLog, answered_append_singleton, h.oks, List.count_append]
    cases s.nextOutcome with
    | ok => rfl
    | fail => rfl
  fails := by
    rw [transmitRequest_txLog, transmitRequest_statusLog, answered_append_singleton, List.count_append]
    cases s.nextOutcome with
    | ok => exact h.fails
    | fail => exact Nat.add_le_add_right h.fails 1

/-- Settles O48: each way a step answers is one of the operations that keep the invariant. -/
theorem everyStepKeepsTheInvariant : Obligations.EveryStepKeepsTheInvariant := by
  intro s t hs hstep
  obtain ⟨u, hu, hcases⟩ := step_next hstep
  have hinv : Inv u := by
    obtain rfl | rfl := hu
    · exact hs
    · exact hs.popReset
  obtain ⟨point, restart, -, -, -, rfl⟩ | ⟨-, rfl⟩ | ⟨r, e, -, -, he, rfl⟩ | ⟨r, w, -, -, hw, rfl⟩ := hcases
  · obtain h | ⟨w, -, hflight, h⟩ := takeBlockReset_cases point restart u
    · rw [h]
      exact hinv.blockReset restart
    · obtain ⟨r, hw⟩ := buildRequest_of_inFlightWord hinv.idle hflight
      rw [h]
      exact (hinv.interrupted (legalWord_of_buildRequest hw)).blockReset restart
  · exact hinv
  · exact hinv.rejectRequest (raisesValidation_buildRequest u.cfg r e he)
  · exact hinv.transmitRequest (legalWord_of_buildRequest hw)

/-- Settles O49: both logs are empty and STATUS is NONE (R37). -/
theorem constructedStateHasTheInvariant : Obligations.ConstructedStateHasTheInvariant :=
  fun m => ⟨rfl, by simp, .inl rfl, by simp, by simp, rfl, Nat.le_refl 0⟩

end Sys2Proof.Safety
end

