-- ==== Sys2Proof/Proofs/PortValues.lean ====
section
/-! The state at reset, and the codes of CFG and STATUS on the ports (R22, R23, R37, R150). -/

namespace Sys2Proof.Machine

/-- Settles O51: a legal table holds the given row, and the lookup finds it (R22, log entry 1). -/
theorem resetStateIsTheGivenModels : Obligations.ResetStateIsTheGivenModels := by
  intro table hlegal
  obtain ⟨-, hgiven⟩ := Bool.and_eq_true_iff.mp hlegal
  exact construct_of_mem hlegal (List.contains_iff_mem.mp hgiven)

/-- Settles O52: the fields of the constructed state with the given row (R37). -/
theorem resetValues : Obligations.ResetValues :=
  ⟨rfl, rfl, rfl, rfl, rfl, rfl, rfl, rfl, rfl, rfl⟩

/-! ### CFG -/

theorem cfgBits_dw (m : DeviceModel) : (cfgBits m).extractLsb' 0 2 = dwField m.dataWidth :=
  BitVec.extractLsb'_append_eq_right

theorem cfgBits_vref (m : DeviceModel) : (cfgBits m).extractLsb' 2 1 = vrefField m.referenceVoltage := by
  rw [cfgBits, BitVec.extractLsb'_append_eq_of_le (by decide)]
  exact BitVec.extractLsb'_append_eq_right

theorem cfgBits_pu (m : DeviceModel) : (cfgBits m).extractLsb' 3 1 = puField m.powerUpMultiplier := by
  rw [cfgBits, BitVec.extractLsb'_append_eq_of_le (by decide)]
  exact BitVec.extractLsb'_append_eq_left

theorem dwField_ne_three (w : DataWidth) : dwField w ≠ 0b11 := by
  cases w <;> decide

/-- Settles O53: CFG is its three fields side by side (R23, D18). -/
theorem cfgFields : Obligations.CfgFields := by
  intro m
  rw [cfgBits_dw, cfgBits_vref, cfgBits_pu]
  exact ⟨rfl, rfl, rfl, dwField_ne_three m.dataWidth⟩

/-! ### Status codes -/

/-- The status a code stands for: each of the eight codes is used (R150). -/
def Status.ofCode (b : BitVec 3) : Status :=
  match b with
  | 0b000#3 => .ok
  | 0b001#3 => .invalidChannel
  | 0b010#3 => .invalidMode
  | 0b011#3 => .invalidValue
  | 0b100#3 => .invalidOperation
  | 0b101#3 => .transportFailure
  | 0b110#3 => .unknownDeviceModel
  | _ => .none

theorem Status.ofCode_code (st : Status) : Status.ofCode st.code = st := by
  cases st <;> rfl

/-- Settles O54: a status is read back from its code, so no two share one (R150, D11). -/
theorem statusCodes : Obligations.StatusCodes :=
  ⟨rfl, rfl, rfl, rfl, rfl, rfl, rfl, rfl, fun _ _ h => Function.LeftInverse.injective Status.ofCode_code h⟩

end Sys2Proof.Machine
end
